-- ==== Sys2Proof/Word.lean ====
section
/-! DEFINITION. The two bit-vector types of the device: the 32-bit register word (rule R20) and the byte of system memory (rule R60). -/

namespace Sys2Proof

/-- A device register, a command word or a bus address: 32 bits (rules R20, R60, R90). -/
abbrev Word := BitVec 32

/-- One byte of system memory (rule R60), and the type `u8` of the pseudocode (rule R8). -/
abbrev Byte := BitVec 8

end Sys2Proof
end

