-- ==== Sys2Proof/Syntax.lean ====
section
/-! DEFINITION. The instructions: one constructor per row of spec/opcode_table.json. The six commands (rule R91) are run by the
engine from the latched command word; the four control operations (rules R231, R236, R237, R238) are host register writes. -/

namespace Sys2Proof

/-- The device's instructions. A field is a bit that the instruction's encoding gives a meaning; a bit that the spec says
is ignored is no field (rules R92, R22, R23). -/
inductive Instr where
  /-- GRAY (rule R110); `aaw` is alpha_as_white, bit 8 of the command word (rule R92). -/
  | gray (aaw : Bool)
  /-- THRESH (rule R140). -/
  | thresh
  /-- DIFFUSE (rule R150). -/
  | diffuse
  /-- HALFTONE (rule R170). -/
  | halftone
  /-- PACK (rule R190). -/
  | pack
  /-- ROTATE (rule R210). -/
  | rotate
  /-- A START write to CTRL taken while IDLE (rule R231); `irqEn` is the written bit 2. -/
  | start (irqEn : Bool)
  /-- A START write to CTRL taken while RUN (rule R236); `irqEn` is the written bit 2. -/
  | startBusy (irqEn : Bool)
  /-- A CTRL write with SRST set, in any phase (rules R237, R240). -/
  | srst
  /-- A STATUS write (rule R238): which of DONE, ERR and IGN have their written bit 1. -/
  | clear (done err ign : Bool)
deriving DecidableEq, Repr

/-- The command word and the operands of a command. The six operand registers (rules R24 to R29) and the six snapshot
latches (rule R33) have this one shape: an accepted START copies the registers to the latches (rule R231). -/
structure Params where
  /-- CMD, lat[CMD]: the command word (rules R24, R90). -/
  cmd : Word
  /-- WIDTH, lat[W]: the image width in pixels (rule R25). -/
  width : Word
  /-- HEIGHT, lat[H]: the image height in pixels (rule R26). -/
  height : Word
  /-- BRIGHT, lat[BRI]: the brightness bias (rule R27). -/
  bright : Word
  /-- SRC_ADDR, lat[SRC]: the source or in-place buffer (rule R28). -/
  src : Word
  /-- DST_ADDR, lat[DST]: the destination buffer (rule R29). -/
  dst : Word
deriving DecidableEq, Repr

end Sys2Proof
end

