-- ==== Sys2Proof/Decode.lean ====
section
/-! DEFINITION. Decoding and encoding. A command word is read from the latched CMD register (rules R90 to R97); a control operation
is read from the value that the host writes to CTRL or STATUS (rules R22, R23, R231, R236 to R238, R240). -/

namespace Sys2Proof

/-- Where a word is presented to the decoder. The same 32 bits mean different things at different places (rules R90, R230). -/
inductive Port where
  /-- The command word lat[CMD] (rule R90). -/
  | cmd
  /-- A value written to CTRL; `busy` says whether the engine is in phase RUN (rules R231, R236). -/
  | ctrl (busy : Bool)
  /-- A value written to STATUS (rule R238). -/
  | status
deriving DecidableEq, Repr

/-- Why a word is no instruction. -/
inductive NoInstr where
  /-- A reserved bit of the command word is set: ERR_ILLEGAL (rule R93). -/
  | reservedBits
  /-- The command word holds a reserved OP value: ERR_ILLEGAL (rule R94). -/
  | reservedOp
  /-- A CTRL write that requests neither START nor SRST: it only stores IRQ_EN (rule R22). -/
  | plainCtrlWrite
  /-- The bytes are not exactly one 32-bit word (rules R69, R90). -/
  | notOneWord
deriving DecidableEq, Repr

/-- What the decoder answers: an instruction, or a rejection by name. -/
inductive Decoded where
  | instr (i : Instr)
  | reject (why : NoInstr)
deriving DecidableEq, Repr

/-- The command word's decoder (rule R96): reserved bits are checked first, then OP. -/
def decodeCommand (c : Word) : Decoded :=
  if c.extractLsb' 4 4 ≠ 0#4 ∨ c.extractLsb' 9 23 ≠ 0#23 then .reject .reservedBits
  else
    match (c.extractLsb' 0 4).toNat with
    | 1 => .instr (.gray (c.getLsbD 8))
    | 2 => .instr .thresh
    | 3 => .instr .diffuse
    | 4 => .instr .halftone
    | 5 => .instr .pack
    | 6 => .instr .rotate
    | _ => .reject .reservedOp

/-- The CTRL write's decoder: SRST wins over START (rule R240), and the phase tells rule R231's START from rule R236's. -/
def decodeCtrl (busy : Bool) (v : Word) : Decoded :=
  if v.getLsbD 1 then .instr .srst
  else if v.getLsbD 0 then
    (if busy then .instr (.startBusy (v.getLsbD 2)) else .instr (.start (v.getLsbD 2)))
  else .reject .plainCtrlWrite

/-- The STATUS write's decoder (rules R23, R238): bits 1, 2 and 3 are DONE, ERR and IGN; every other bit is ignored. -/
def decodeStatus (v : Word) : Decoded :=
  .instr (.clear (v.getLsbD 1) (v.getLsbD 2) (v.getLsbD 3))

/-- The decoder at each place a word can be presented. -/
def decodeAt (port : Port) (w : Word) : Decoded :=
  match port with
  | .cmd => decodeCommand w
  | .ctrl busy => decodeCtrl busy w
  | .status => decodeStatus w

/-- Four bytes as a word, the first byte least significant (rule R62). -/
def wordOfBytes (b0 b1 b2 b3 : Byte) : Word := b3 ++ b2 ++ b1 ++ b0

/-- Byte `k` of a word, byte 0 least significant (rule R62). -/
def byteOfWord (w : Word) (k : Nat) : Byte := w.extractLsb' (8 * k) 8

/-- The decoder on bytes as the bus presents them (rule R62): exactly four bytes make a word. -/
def decodeBytes (port : Port) (bytes : List Byte) : Decoded :=
  match bytes with
  | [b0, b1, b2, b3] => decodeAt port (wordOfBytes b0 b1 b2 b3)
  | _ => .reject .notOneWord

/-- A one-bit field at bit `k` of a word. -/
def bitAt (k : Nat) (b : Bool) : Word := if b then 1#32 <<< k else 0#32

/-- The place where an instruction's word is presented. -/
def portOf : Instr → Port
  | .gray _ => .cmd
  | .thresh => .cmd
  | .diffuse => .cmd
  | .halftone => .cmd
  | .pack => .cmd
  | .rotate => .cmd
  | .start _ => .ctrl false
  | .startBusy _ => .ctrl true
  | .srst => .ctrl false
  | .clear _ _ _ => .status

/-- The encoder: the word of an instruction, every ignored bit 0 (rules R91, R98, R99). -/
def encode : Instr → Word
  | .gray aaw => 0x00000001#32 ||| bitAt 8 aaw
  | .thresh => 0x00000002#32
  | .diffuse => 0x00000003#32
  | .halftone => 0x00000004#32
  | .pack => 0x00000005#32
  | .rotate => 0x00000006#32
  | .start irqEn => 0x00000001#32 ||| bitAt 2 irqEn
  | .startBusy irqEn => 0x00000001#32 ||| bitAt 2 irqEn
  | .srst => 0x00000002#32
  | .clear done err ign => bitAt 1 done ||| bitAt 2 err ||| bitAt 3 ign

/-- The four bytes of an instruction's word in bus order (rule R62). -/
def encodeBytes (i : Instr) : List Byte :=
  [byteOfWord (encode i) 0, byteOfWord (encode i) 1, byteOfWord (encode i) 2, byteOfWord (encode i) 3]

/-- The place at which a bare word of the opcode table is read (assumption 6, DESIGN CHOICE). The table's rows share
words among three places, so a bare number does not say which is meant: an accepted command word is read at CMD, else a word
with bit 0 or bit 1 set at CTRL while IDLE, else at STATUS. -/
def tablePort (w : Word) : Port :=
  match decodeCommand w with
  | .instr _ => .cmd
  | .reject _ => if w.getLsbD 0 || w.getLsbD 1 then .ctrl false else .status

/-- The word of a table instruction given as a number: the bits above `nbits` are 0. -/
def tableWord (nbits w : Nat) : Word := BitVec.ofNat 32 (w % 2 ^ nbits)

/-- The instruction that the decoder reads from the bits `w` of an opcode-table row, laid out as the bus presents them;
none for a number that needs more than the 32 bits of the one format (rule R90). -/
def decodeTableWord (nbits w : Nat) : Option Instr :=
  let v := tableWord nbits w
  if 2 ^ 32 ≤ w % 2 ^ nbits then none
  else match decodeBytes (tablePort v) [byteOfWord v 0, byteOfWord v 1, byteOfWord v 2, byteOfWord v 3] with
  | .instr i => some i
  | .reject _ => none

end Sys2Proof
end

