-- ==== Sys2Proof/Config.lean ====
section
/-! DEFINITION. What an implementation fixes: the constants of rule R7, and the free values, which have no body because the spec leaves them open. -/

namespace Sys2Proof

/-- `MAX_DIM`, the largest accepted WIDTH or HEIGHT (rule R7). -/
def Config.maxDim : Nat := 65535

/-- The largest accepted brightness of a GRAY command (rule R27). -/
def Config.maxBright : Nat := 255

/-- `BRIGHT_RESET` (rules R7, R27). -/
def Config.brightReset : Word := 85#32

/-- `BRIGHT_NEUTRAL` (rule R7). -/
def Config.brightNeutral : Nat := 128

/-- The ID register's constant value (rule R21). -/
def Config.deviceId : Word := 0x47524D01#32

/-- The size in bytes of the register window (rule R20). -/
def Config.windowSize : Nat := 256

/-- The number of byte addresses of the system bus, 2^32 (rule R60). -/
def Config.addressSpace : Nat := 4294967296

/-- `HT_EDGE`, the halftone block edge (rule R7). -/
def Config.halftoneEdge : Nat := 4

/-- The fixed cut of THRESH and DIFFUSE: a byte is white when it exceeds this (rules R140, R142, R152). -/
def Config.cut : Nat := 128

/-- DESIGN CHOICE, unsafe (assumption 1): what a byte of system memory that nothing has written reads as.
The spec leaves the power-on contents to the platform (rule R40, S13). -/
def Config.unwritten : Byte := 0#8

/-- Free choice, safe (assumptions 2, 3): the `k`-th unspecified number. It picks the PROGRESS value inside its bounds
(rule R30, S6) and which failing address ERR_ADDR records (rule R263, S5). It has no body: nothing can be proved of
its value. -/
opaque Config.freeNat : Nat → Nat

/-- Free value, safe (assumption 4): at draw `k`, the unspecified byte at an address: a write range after ERR_BUS or an
aborting reset (rules R265, R291, S3, S4), or an output that the host reads early (rule R78, S1). -/
opaque Config.freeByte : Nat → Nat → Byte

/-- Free value, safe (assumption 5): at draw `k`, the unspecified content of the latch with a given number after a
command or a reset (rules R33, R40, S7). -/
opaque Config.freeWord : Nat → Nat → Word

end Sys2Proof
end

