-- ==== Sys2Proof/Machine/State.lean ====
section
/-! DEFINITION. The state: the device's registers, latches and phase (rules R20 to R40), system memory (rule R60), the platform's
parameters (rule R7), and the model's own record of what the host and the other agents do (rules R14, R78, R294 to R305). -/

namespace Sys2Proof.Machine

/-- The engine phase (rule R34). STATUS.BUSY is 1 exactly in `run`. -/
inductive Phase where
  | idle
  | run
deriving DecidableEq, Repr

/-- The error codes of rule R260. Codes 7 to 15 are never reported (S17) and have no constructor. -/
inductive ErrCode where
  | none
  | illegal
  | param
  | align
  | range
  | overlap
  | bus
deriving DecidableEq, Repr

/-- The stored fields of STATUS (rule R23). BUSY is not stored: it is the phase (rule R34). -/
structure Status where
  done : Bool
  err : Bool
  ign : Bool
  errCode : ErrCode
deriving DecidableEq, Repr

/-- The bytes `base .. base + size - 1` of an address space, as in rule R67; empty when `size` is 0. -/
structure Region where
  base : Nat
  size : Nat
deriving DecidableEq, Repr

/-- System memory (rule R60): the written bytes, in the canonical form that `Memory.wf` states. -/
abbrev Memory := List Host.Cell

/-- What the platform fixes (rule R7, S14) and the facts about the host's memory that the host duties speak of. No step
changes it. Each list names the exceptions, so an empty list means that nothing is excepted. -/
structure Platform where
  /-- `MMIO_BASE`, the base of the register window (rules R7, R20). -/
  mmioBase : Word
  /-- `IRQ_LINE`, the input of the host's interrupt controller that `irq` drives (rule R270). -/
  irqLine : Nat
  /-- The addresses at which `MemOK(addr, read)` is false, besides the device's own window (rules R7, R61). -/
  noRead : List Region
  /-- The addresses at which `MemOK(addr, write)` is false, besides the device's own window (rules R7, R61). -/
  noWrite : List Region
  /-- The addresses that are not ordinary memory (rules R72, R301). -/
  special : List Region
  /-- The addresses that the host has not allocated to its buffers (rule R300). -/
  unowned : List Region
  /-- Whether the platform keeps the engine's accesses coherent with the host's caches (rule R302). -/
  coherent : Bool
deriving DecidableEq, Repr

/-- The ranges of a running command: what it reads and what it writes (rule R67). -/
structure Claim where
  reads : Region
  writes : Region
deriving DecidableEq, Repr

/-- The model's record of the host, for the duties of 70_reset_and_hazards.md; no field of it is device state. -/
structure HostView where
  /-- The ranges of the started commands whose end the host has not yet seen (rules R294, R295). -/
  borrows : List Claim
  /-- The bytes that the host wrote and has not cleaned from its caches, on a platform without coherence (rule R302). -/
  dirty : List Region
  /-- The bytes that a command wrote and that the host has not invalidated since, likewise (rule R302). -/
  stale : List Region
  /-- The value of the host's last read, with what it returned; none before the first one. -/
  lastRead : Option Word
deriving DecidableEq, Repr

/-- The width of a host access (rule R69 allows only `word` in the register window). -/
inductive Width where
  | byte
  | half
  | word
deriving DecidableEq, Repr

/-- What the host can do (rules R14, R98, R302). An address in the register window reaches a register, any other reaches
system memory (rules R20, R61). -/
inductive HostOp where
  /-- A write of the low bytes of `value`. -/
  | store (addr : Word) (width : Width) (value : Word)
  /-- A read. -/
  | load (addr : Word) (width : Width)
  /-- The host samples an input line of its interrupt controller (rule R270). -/
  | senseIrq (line : Nat)
  /-- The host cleans (writes back) its caches for a range (rule R302). -/
  | clean (r : Region)
  /-- The host invalidates its caches for a range (rule R302). -/
  | invalidate (r : Region)
deriving DecidableEq, Repr

/-- What can happen at the device's boundary. The list of them in `State` is the schedule: which agent acts next
(rule R14). -/
inductive Event where
  /-- One host operation. -/
  | host (op : HostOp)
  /-- The engine works on its command without ending it (rules R30, R242). -/
  | work
  /-- The engine takes the steps that end its command (rules R235, R265). -/
  | finish
  /-- The platform asserts the reset input (rule R290). -/
  | powerReset
  /-- Another device instance starts a command with these ranges (rules R276, R303). -/
  | otherStart (c : Claim)
  /-- Another device instance ends a command with these ranges. -/
  | otherEnd (c : Claim)
deriving DecidableEq, Repr

/-- The state of the machine. -/
structure State where
  /-- CTRL.IRQ_EN (rule R22); CTRL's other bits read 0 and store nothing. -/
  irqEn : Bool
  /-- STATUS.DONE, ERR, IGN and ERR_CODE (rule R23). -/
  status : Status
  /-- CMD, WIDTH, HEIGHT, BRIGHT, SRC_ADDR and DST_ADDR (rules R24 to R29). -/
  regs : Params
  /-- PROGRESS (rule R30). -/
  progress : Word
  /-- ERR_ADDR (rule R31). -/
  errAddr : Word
  /-- The snapshot latches (rule R33). -/
  lat : Params
  /-- The engine phase (rule R34). -/
  phase : Phase
  /-- System memory (rule R60). -/
  mem : Memory
  /-- The platform (rule R7). -/
  platform : Platform
  /-- The model's own field: the record of the host. -/
  host : HostView
  /-- The model's own field: the commands that run on other device instances (rules R276, R303). -/
  others : List Claim
  /-- The model's own field: the events to come, the next one first (assumption 7). -/
  pending : List Event
  /-- The model's own field: how many free values have been drawn (assumptions 2 to 5). -/
  freeCount : Nat
deriving DecidableEq, Repr

/-- The host duties whose breach rule R305 records. -/
inductive Hazard where
  /-- A register access that is not one aligned 32-bit access (rule R69, S10). -/
  | registerAccess
  /-- A host write to a byte of a command's ranges, on any instance, before the host has seen the command's end (rules R78,
  R294, S2). -/
  | ownership
  /-- A range that the host has not allocated in full (rule R300, U1, U2). -/
  | extent
  /-- A range that is not ordinary memory (rules R72, R301, S11). -/
  | memoryType
  /-- A missing cache clean before START or a missing invalidation before a read (rule R302, S11). -/
  | coherence
  /-- Ranges shared by commands on two device instances, where either writes (rule R303, S12). -/
  | sharing
deriving DecidableEq, Repr

/-- How the machine stops. -/
inductive Fault where
  /-- `HostHazard` of rule R305, sticky: no step follows it. Raised by a START whose command breaks a duty, and by a host
  access or another instance's start that breaks one. Safe: the spec leaves the later behaviour unspecified, and the model
  stops where a device may go on. -/
  | hostHazard (why : Hazard)
deriving DecidableEq, Repr

/-- Why a step has no meaning. -/
inductive Refusal where
  /-- The arm of `exec` has no meaning yet. No arm answers with it. Safe. -/
  | notModelled (mnemonic : String)
  /-- Raised by the engine in phase RUN when the latched word is no command. No reachable state is such: START validates
  the word first (rule R261). Safe: the spec gives an engine no behaviour there. -/
  | latchedNoCommand
deriving DecidableEq, Repr

/-- The reset values of the operand registers (rule R40). -/
def Params.reset : Params where
  cmd := 0#32
  width := 0#32
  height := 0#32
  bright := Config.brightReset
  src := 0#32
  dst := 0#32

/-- The latches right after power-on: zero (assumption 5, DESIGN CHOICE, unsafe; rule R40 leaves them unspecified). -/
def Params.zero : Params where
  cmd := 0#32
  width := 0#32
  height := 0#32
  bright := 0#32
  src := 0#32
  dst := 0#32

/-- The reset value of STATUS (rule R40). -/
def Status.reset : Status where
  done := false
  err := false
  ign := false
  errCode := .none

/-- The platform of the reset state (assumption 8, DESIGN CHOICE, unsafe): the window at 0x80000000, interrupt line 0,
every bus access outside the window completes, all memory ordinary, allocated and coherent. -/
def Platform.plain : Platform where
  mmioBase := 0x80000000#32
  irqLine := 0
  noRead := []
  noWrite := []
  special := []
  unowned := []
  coherent := true

/-- The host before it has done anything. -/
def HostView.fresh : HostView where
  borrows := []
  dirty := []
  stale := []
  lastRead := none

/-- The machine right after power-on reset (rules R40, R290). -/
def State.reset : State where
  irqEn := false
  status := Status.reset
  regs := Params.reset
  progress := 0#32
  errAddr := 0#32
  lat := Params.zero
  phase := .idle
  mem := []
  platform := Platform.plain
  host := HostView.fresh
  others := []
  pending := []
  freeCount := 0

end Sys2Proof.Machine
end

