-- ==== Sys2Proof/Machine/Flags.lean ====
section
/-! DEFINITION. The status flags and the interrupt line (rules R22, R23, R35, R38, R260, R270): the register views, and the
named updates of STATUS and CTRL. The device has no condition codes (rule R38). -/

namespace Sys2Proof.Machine

/-- The number of an error code (rule R260). -/
def ErrCode.toNat : ErrCode → Nat
  | .none => 0
  | .illegal => 1
  | .param => 2
  | .align => 3
  | .range => 4
  | .overlap => 5
  | .bus => 6

/-- STATUS.BUSY (rule R34). -/
def State.busy (s : State) : Bool :=
  match s.phase with
  | .idle => false
  | .run => true

/-- A bit as a number. -/
def bit (b : Bool) : Nat := if b then 1 else 0

/-- The word that a read of STATUS returns (rule R23). -/
def statusWord (s : State) : Word :=
  BitVec.ofNat 32 (bit s.busy + 2 * bit s.status.done + 4 * bit s.status.err + 8 * bit s.status.ign +
    256 * s.status.errCode.toNat)

/-- The word that a read of CTRL returns: IRQ_EN in bit 2, every other bit 0 (rule R22). -/
def ctrlWord (s : State) : Word := BitVec.ofNat 32 (4 * bit s.irqEn)

/-- The interrupt output, a level (rules R35, R270). IGN is not a source (rule R271). -/
def irq (s : State) : Bool := s.irqEn && (s.status.done || s.status.err)

/-- The level of input `line` of the host's interrupt controller, as far as the device drives it (rule R270). -/
def irqLevel (s : State) (line : Nat) : Bool := irq s && decide (line = s.platform.irqLine)

/-- Store the written bit 2 of a CTRL write (rule R22). -/
def State.setIrqEn (s : State) (b : Bool) : State := { s with irqEn := b }

/-- The flag changes of a STATUS write (rule R238): each flag whose written bit is 1 becomes 0. -/
def State.clearFlags (s : State) (done err ign : Bool) : State :=
  { s with
    status :=
      { s.status with
        done := s.status.done && !done
        err := s.status.err && !err
        ign := s.status.ign && !ign } }

/-- Record a dropped START (rule R236). -/
def State.setIgn (s : State) : State := { s with status := { s.status with ign := true } }

/-- What an accepted START clears (rule R231): DONE, ERR, ERR_CODE, ERR_ADDR and PROGRESS. IGN is kept. -/
def State.clearOutcome (s : State) : State :=
  { s with
    status := { s.status with done := false, err := false, errCode := .none }
    errAddr := 0#32
    progress := 0#32 }

end Sys2Proof.Machine
end

