-- ==== Sys2Proof/Machine/Operands.lean ====
section
/-! DEFINITION. The operands of a command (rule R95): its element count, and the ranges that it reads and writes (rule R67). -/

namespace Sys2Proof.Machine

/-- L = lat[W]*lat[H], an exact integer (rules R67, R73). -/
def pixels (p : Params) : Nat := p.width.toNat * p.height.toNat

/-- ceil(L/8), the bytes of a packed bitstream (rule R65). -/
def packedBytes (p : Params) : Nat := (pixels p + 7) / 8

/-- `N_op`, the elements of a command (rule R30): ceil(L/8) for PACK, L for the other commands; 0 for a control
operation, which counts nothing. -/
def elements (i : Instr) (p : Params) : Nat :=
  match i with
  | .gray _ => pixels p
  | .thresh => pixels p
  | .diffuse => pixels p
  | .halftone => pixels p
  | .pack => packedBytes p
  | .rotate => pixels p
  | .start _ => 0
  | .startBusy _ => 0
  | .srst => 0
  | .clear _ _ _ => 0

/-- The empty range. -/
def Region.empty : Region := { base := 0, size := 0 }

/-- The range that a command reads (rule R67); empty for a control operation. -/
def readRange (i : Instr) (p : Params) : Region :=
  match i with
  | .gray _ => { base := p.src.toNat, size := 4 * pixels p }
  | .thresh => { base := p.src.toNat, size := pixels p }
  | .diffuse => { base := p.src.toNat, size := pixels p }
  | .halftone => { base := p.src.toNat, size := pixels p }
  | .pack => { base := p.src.toNat, size := pixels p }
  | .rotate => { base := p.src.toNat, size := 4 * pixels p }
  | .start _ => Region.empty
  | .startBusy _ => Region.empty
  | .srst => Region.empty
  | .clear _ _ _ => Region.empty

/-- The range that a command writes (rule R67): the reducers write the range they read; empty for a control operation. -/
def writeRange (i : Instr) (p : Params) : Region :=
  match i with
  | .gray _ => { base := p.dst.toNat, size := pixels p }
  | .thresh => { base := p.src.toNat, size := pixels p }
  | .diffuse => { base := p.src.toNat, size := pixels p }
  | .halftone => { base := p.src.toNat, size := pixels p }
  | .pack => { base := p.dst.toNat, size := packedBytes p }
  | .rotate => { base := p.dst.toNat, size := 4 * pixels p }
  | .start _ => Region.empty
  | .startBusy _ => Region.empty
  | .srst => Region.empty
  | .clear _ _ _ => Region.empty

/-- Whether the command works in place: its two ranges are one (rule R67). -/
def inPlace (i : Instr) : Bool :=
  match i with
  | .gray _ => false
  | .thresh => true
  | .diffuse => true
  | .halftone => true
  | .pack => false
  | .rotate => false
  | .start _ => false
  | .startBusy _ => false
  | .srst => false
  | .clear _ _ _ => false

/-- The ranges of a command that hold RGBA pixels, the read range first (rules R68, R261). -/
def rgbaRanges (i : Instr) (p : Params) : List Region :=
  match i with
  | .gray _ => [readRange i p]
  | .thresh => []
  | .diffuse => []
  | .halftone => []
  | .pack => []
  | .rotate => [readRange i p, writeRange i p]
  | .start _ => []
  | .startBusy _ => []
  | .srst => []
  | .clear _ _ _ => []

/-- The ranges whose end is checked, the read range first (rule R261: for an in-place command the read range only). -/
def checkedRanges (i : Instr) (p : Params) : List Region :=
  if inPlace i then [readRange i p] else [readRange i p, writeRange i p]

/-- The ranges of a command as one claim. -/
def claimOf (i : Instr) (p : Params) : Claim := { reads := readRange i p, writes := writeRange i p }

/-- The address of pixel `(x, y)` of a byte image of width `w` at `base` (rules R64, R66). -/
def byteAddr (base w x y : Nat) : Nat := base + (y * w + x)

/-- The bytes that HALFTONE reads: the pixels of the complete blocks (rules R170, R171; assumption 14, DEDUCED, unsafe). Every
other command reads its whole range. -/
def halftoneReads (p : Params) : List Nat :=
  let w := p.width.toNat
  let e := Config.halftoneEdge
  (List.range (e * (p.height.toNat / e))).flatMap fun y =>
    (List.range (e * (w / e))).map fun x => byteAddr p.src.toNat w x y

/-- The addresses of a range, in ascending order. -/
def Region.addresses (r : Region) : List Nat := (List.range r.size).map (r.base + ·)

/-- The byte addresses that the engine reads for a command (rules R67, R70; the pseudocode of rule R170 for HALFTONE). -/
def readAddrs (i : Instr) (p : Params) : List Nat :=
  match i with
  | .halftone => halftoneReads p
  | .gray _ => (readRange i p).addresses
  | .thresh => (readRange i p).addresses
  | .diffuse => (readRange i p).addresses
  | .pack => (readRange i p).addresses
  | .rotate => (readRange i p).addresses
  | .start _ => []
  | .startBusy _ => []
  | .srst => []
  | .clear _ _ _ => []

/-- The byte addresses that the engine writes for a command: all of its write range (rule R67). -/
def writeAddrs (i : Instr) (p : Params) : List Nat := (writeRange i p).addresses

end Sys2Proof.Machine
end

