-- ==== Sys2Proof/Machine/Ops.lean ====
section
/-! DEFINITION. The named operations over memory and registers: system memory (rules R60, R62), ranges (rules R73, R74), the platform's
`MemOK` (rules R7, R61), validation (rule R261), the host hazards (rule R305), starting and ending a command (rules R231,
R235), raising an error (rules R9, R260, R264, R265), and reset (rules R290, R291). -/

namespace Sys2Proof.Machine

/-! ### System memory -/

/-- The byte at an address (rule R60). -/
def Memory.read : Memory → Nat → Byte
  | [], _ => Config.unwritten
  | (a, b) :: rest, x => if x = a then b else Memory.read rest x

/-- List one byte at its place in the rising order, in place of an entry at the same address. -/
def Memory.put : Memory → Nat → Byte → Memory
  | [], x, v => [(x, v)]
  | (a, b) :: rest, x, v =>
    if x < a then (x, v) :: (a, b) :: rest
    else if x = a then (x, v) :: rest
    else (a, b) :: Memory.put rest x v

/-- Store one byte and keep the canonical form: writing the value that an unlisted address reads as removes the entry. -/
def Memory.write (m : Memory) (x : Nat) (v : Byte) : Memory :=
  if v = Config.unwritten then m.filter (fun c => decide (c.1 ≠ x)) else m.put x v

/-- The canonical form: addresses strictly rising, and no entry equal to what an unlisted address reads as. -/
def Memory.wf : Memory → Bool
  | [] => true
  | (a, b) :: rest => !(b == Config.unwritten) && rest.all (fun c => decide (a < c.1)) && Memory.wf rest

/-- `MemRead(a, 4)`: four bytes, the byte at `a` least significant (rules R9, R62). -/
def Memory.read32 (m : Memory) (a : Nat) : Word :=
  wordOfBytes (m.read a) (m.read (a + 1)) (m.read (a + 2)) (m.read (a + 3))

/-- `MemWrite(a, 4, v)`: four bytes, the least significant at `a` (rules R9, R62). -/
def Memory.write32 (m : Memory) (a : Nat) (v : Word) : Memory :=
  (((m.write a (byteOfWord v 0)).write (a + 1) (byteOfWord v 1)).write (a + 2) (byteOfWord v 2)).write (a + 3)
    (byteOfWord v 3)

/-- Replace the byte at each listed address by a function's value there. -/
def Memory.overwrite (m : Memory) (addrs : List Nat) (f : Nat → Byte) : Memory :=
  addrs.foldl (fun m a => m.write a (f a)) m

/-- Set system memory. -/
def State.setMem (s : State) (m : Memory) : State := { s with mem := m }

/-! ### Ranges -/

/-- Whether an address lies in a range. -/
def Region.has (r : Region) (a : Nat) : Bool := decide (r.base ≤ a) && decide (a < r.base + r.size)

/-- Whether two ranges overlap (rule R74): both are non-empty and they share a byte. -/
def Region.overlaps (r q : Region) : Bool :=
  decide (0 < r.size) && decide (0 < q.size) && decide (r.base < q.base + q.size) && decide (q.base < r.base + r.size)

/-- What is left of a range when another one is taken out: at most two non-empty pieces. -/
def Region.minus (r q : Region) : List Region :=
  if r.overlaps q then
    [{ base := r.base, size := q.base - r.base },
      { base := q.base + q.size, size := r.base + r.size - (q.base + q.size) }].filter fun p => decide (0 < p.size)
  else [r]

/-- Take a range out of every range of a list. -/
def removeRegion (rs : List Region) (q : Region) : List Region := rs.flatMap fun r => r.minus q

/-- Whether an address lies in one of the ranges. -/
def covered (rs : List Region) (a : Nat) : Bool := rs.any fun r => r.has a

/-- Whether a command's ranges touch one of the ranges of a list. -/
def Claim.touches (c : Claim) (rs : List Region) : Bool := rs.any fun r => r.overlaps c.reads || r.overlaps c.writes

/-- Whether two commands conflict (rule R303): one writes a byte that the other reads or writes. -/
def Claim.conflicts (c d : Claim) : Bool :=
  c.writes.overlaps d.reads || c.writes.overlaps d.writes || d.writes.overlaps c.reads

/-- The device's own register window on the platform's bus (rules R20, R61). -/
def Platform.window (p : Platform) : Region := { base := p.mmioBase.toNat, size := Config.windowSize }

/-- `MemOK(addr, write)` (rules R7, R60, R61): false outside the address space, in the device's own window, and where the
platform excepts the address. -/
def Platform.memOK (p : Platform) (write : Bool) (a : Nat) : Bool :=
  decide (a < Config.addressSpace) && !p.window.has a && !covered (if write then p.noWrite else p.noRead) a

/-- The addresses of the engine's accesses for a command that the platform does not complete (rules R60, R265), byte by byte
(assumption 17, DEDUCED, safe). -/
def busFailures (pl : Platform) (i : Instr) (p : Params) : List Nat :=
  (readAddrs i p).filter (fun a => !pl.memOK false a) ++ (writeAddrs i p).filter (fun a => !pl.memOK true a)

/-! ### Validation (rule R261) -/

/-- What `Validate()` answers. -/
inductive Verdict where
  | accept (i : Instr)
  | reject (code : ErrCode) (addr : Word)
deriving DecidableEq, Repr

/-- The base of the first RGBA range that is not 4-aligned (rules R68, R261). -/
def misaligned (i : Instr) (p : Params) : Option Region :=
  (rgbaRanges i p).find? fun r => decide (r.base % 4 ≠ 0)

/-- The first non-empty range that passes the top of the address space (rules R73, R261). -/
def outOfRange (i : Instr) (p : Params) : Option Region :=
  (checkedRanges i p).find? fun r => decide (0 < r.size) && decide (Config.addressSpace < r.base + r.size)

/-- GRAY's brightness check; no other command checks BRIGHT (rules R95, R261). -/
def brightTooBig (i : Instr) (p : Params) : Bool :=
  match i with
  | .gray _ => decide (Config.maxBright < p.bright.toNat)
  | _ => false

/-- `Validate()` (rule R261): the first check that fails, in the spec's order. -/
def validate (p : Params) : Verdict :=
  match decodeCommand p.cmd with
  | .reject _ => .reject .illegal 0#32
  | .instr i =>
    if decide (Config.maxDim < p.width.toNat) || decide (Config.maxDim < p.height.toNat) then .reject .param 0#32
    else if brightTooBig i p then .reject .param 0#32
    else
      match misaligned i p with
      | some r => .reject .align (BitVec.ofNat 32 r.base)
      | none =>
        match outOfRange i p with
        | some r => .reject .range (BitVec.ofNat 32 r.base)
        | none =>
          if !inPlace i && (readRange i p).overlaps (writeRange i p) then .reject .overlap p.dst
          else .accept i

/-! ### Free values -/

/-- Count `n` draws of free values. -/
def State.draw (s : State) (n : Nat) : State := { s with freeCount := s.freeCount + n }

/-- The `k`-th free choice among `n` numbers `0 .. n-1`. -/
def freeBelow (k n : Nat) : Nat := Config.freeNat k % n

/-- An unspecified PROGRESS for a command of `n` elements (rule R30, S6): at least its present value, at most `n`. -/
def freeProgress (k n : Nat) (now : Word) : Word := BitVec.ofNat 32 (now.toNat + freeBelow k (n - now.toNat + 1))

/-- The unspecified latches after a command or a reset (rules R33, R40, S7). -/
def freeLatches (k : Nat) : Params where
  cmd := Config.freeWord k 0
  width := Config.freeWord k 1
  height := Config.freeWord k 2
  bright := Config.freeWord k 3
  src := Config.freeWord k 4
  dst := Config.freeWord k 5

/-- The latches after a command: unspecified (rule R33, S7). -/
def State.forgetLatches (s : State) : State := { s with lat := freeLatches s.freeCount, freeCount := s.freeCount + 1 }

/-- Memory after the contents of a range became unspecified (rules R265, R291, S3, S4). -/
def Memory.scramble (m : Memory) (k : Nat) (r : Region) : Memory := m.overwrite r.addresses (Config.freeByte k)

/-! ### Starting a command -/

/-- The latch copy of rule R231. -/
def State.latchOperands (s : State) : State := { s with lat := s.regs }

/-- Enter phase RUN. The command's ranges are now lent to the engine (rule R294), and what the host's caches held of the
write range is superseded (assumption 9). -/
def State.enterRun (s : State) (c : Claim) : State :=
  { s with
    phase := .run
    host := { s.host with borrows := c :: s.host.borrows, dirty := removeRegion s.host.dirty c.writes } }

/-- The duty that starting this command breaks, if any (rule R305): extent (R300), memory type (R301), coherence (R302)
and sharing (R303). -/
def startHazard (s : State) (c : Claim) : Option Hazard :=
  if c.touches s.platform.unowned then some .extent
  else if c.touches s.platform.special then some .memoryType
  else if s.host.dirty.any (fun r => r.overlaps c.reads) then some .coherence
  else if s.others.any (fun d => c.conflicts d) then some .sharing
  else none

/-! ### Raising an error, and clearing it -/

/-- `raise Error(code, addr)` (rules R9, R260, R263): the one way an error is taken. It records the code and the address, sets
ERR, and the engine is IDLE; nothing is saved to return to (rules R266, R268). -/
def State.raiseError (s : State) (code : ErrCode) (addr : Word) : State :=
  { s with
    status := { s.status with err := true, errCode := code }
    errAddr := addr
    phase := .idle }

/-- What a command's end adds to the host's duties: on a platform without coherence the written bytes must be invalidated
before they are read (rule R302). -/
def State.markWritten (s : State) (r : Region) : State :=
  if s.platform.coherent || decide (r.size = 0) then s
  else { s with host := { s.host with stale := r :: s.host.stale } }

/-- Set PROGRESS. -/
def State.setProgress (s : State) (n : Word) : State := { s with progress := n }

/-- ERR_BUS (rules R263, R265): ERR_ADDR is one of the failing addresses, PROGRESS any value in its bounds, the write
range's bytes and the latches unspecified, and the error is raised. -/
def busError (i : Instr) (failing : List Nat) (s : State) : State :=
  let k := s.freeCount
  let addr := failing.getD (freeBelow k failing.length) 0
  (((((s.setMem (s.mem.scramble k (writeRange i s.lat))).setProgress
    (freeProgress (k + 1) (elements i s.lat) s.progress)).raiseError .bus (BitVec.ofNat 32 addr)).markWritten
      (writeRange i s.lat)).draw 2).forgetLatches

/-! ### Ending a command -/

/-- Completion (rule R235): PROGRESS is N_op, ERR_CODE 0, DONE 1, and the engine is IDLE. -/
def complete (i : Instr) (s : State) : State :=
  { s with
    progress := BitVec.ofNat 32 (elements i s.lat)
    status := { s.status with errCode := .none, done := true }
    phase := .idle }

/-- Run a command to its end (rules R79, R234, R235, R265). In IDLE the engine does nothing (rule R278). A failing bus access
ends the command with ERR_BUS; otherwise memory is what the command's pseudocode `body` gives, the command completes, and the
latches are unspecified again (rule R33). -/
def runCommand (i : Instr) (body : Memory → Memory) (s : State) : Host.Outcome State Fault Refusal :=
  match s.phase with
  | .idle => .next s
  | .run =>
    match busFailures s.platform i s.lat with
    | [] => .next ((complete i (s.setMem (body s.mem))).markWritten (writeRange i s.lat)).forgetLatches
    | a :: rest => .next (busError i (a :: rest) s)

/-! ### Reset -/

/-- The bytes that a reset leaves unspecified (rules R237, R291): the write range of the running command, or none. -/
def abortedRange (s : State) : Region :=
  match s.phase with
  | .idle => Region.empty
  | .run =>
    match decodeCommand s.lat.cmd with
    | .instr i => writeRange i s.lat
    | .reject _ => Region.empty

/-- Every device register at its reset value (rule R40), with given latches, in phase IDLE. The host knows that no
command runs any more. -/
def State.resetRegisters (s : State) (latches : Params) : State :=
  { s with
    irqEn := false
    status := Status.reset
    regs := Params.reset
    progress := 0#32
    errAddr := 0#32
    lat := latches
    phase := .idle
    host := { s.host with borrows := [] } }

/-- The reset of the device (rules R40, R290, R291): a running command is aborted, every register takes its reset value,
the latches are unspecified, and memory outside an aborted command's write range is unchanged. -/
def deviceReset (s : State) : State :=
  let k := s.freeCount
  let r := abortedRange s
  (((s.setMem (s.mem.scramble k r)).resetRegisters (freeLatches k)).markWritten r).draw 1

end Sys2Proof.Machine
end

