-- ==== Sys2Proof/Machine/Control.lean ====
section
/-! DEFINITION. The control operations: START (rules R231, R236), SRST (rules R237, R240) and the STATUS clear (rule R238). -/

namespace Sys2Proof.Machine

/-- A START that is taken (rules R231 to R233, R261, R264), as one step with the CTRL write. A command that breaks a host
duty is HostHazard (rule R305); a rejected command touches no memory, so it breaks none. A START taken before the host has
seen the last command's end is an ordinary one, by rules R267 and R278 (assumption 15, DEDUCED, unsafe). -/
def startAccepted (irqEn : Bool) (s : State) : Host.Outcome State Fault Refusal :=
  let s1 := ((s.setIrqEn irqEn).latchOperands).clearOutcome
  match validate s1.lat with
  | .reject code addr => .next (s1.raiseError code addr)
  | .accept i =>
    match startHazard s1 (claimOf i s1.lat) with
    | some why => .fault (.hostHazard why)
    | none => .next (s1.enterRun (claimOf i s1.lat))

/-- A START that is dropped (rule R236): IRQ_EN takes the written bit and IGN is set. -/
def startDropped (irqEn : Bool) (s : State) : State := (s.setIrqEn irqEn).setIgn

/-- START (rule R231). In phase RUN the same write is rule R236's. -/
def execStart (irqEn : Bool) (s : State) : Host.Outcome State Fault Refusal :=
  match s.phase with
  | .idle => startAccepted irqEn s
  | .run => .next (startDropped irqEn s)

/-- START while busy (rule R236). In phase IDLE the same write is rule R231's (rule R267). -/
def execStartBusy (irqEn : Bool) (s : State) : Host.Outcome State Fault Refusal :=
  match s.phase with
  | .run => .next (startDropped irqEn s)
  | .idle => startAccepted irqEn s

/-- SRST, the soft reset, in either phase (rules R237, R240, R291). -/
def execSrst (s : State) : Host.Outcome State Fault Refusal := .next (deviceReset s)

/-- The STATUS clear (rule R238). -/
def execClear (done err ign : Bool) (s : State) : Host.Outcome State Fault Refusal :=
  .next (s.clearFlags done err ign)

end Sys2Proof.Machine
end

