-- ==== Sys2Proof/Machine/Binary64.lean ====
section
/-! DEFINITION. IEEE 754 binary64 as rules R10 to R12 use it: finite values, round to nearest with ties to even, and `store8`. Lean's
own `Float` cannot be evaluated by the kernel, so the arithmetic is exact integer arithmetic with one rounding per operation. -/

namespace Sys2Proof.Machine

/-- A finite binary64 value, `man * 2^exp`. Every operation answers the normal form: `man` is 0 with `exp` 0, or
`2^52 ≤ |man| < 2^53`, or a subnormal with `exp` -1074. The sign of zero is not represented: no operation of the device can
tell -0 from +0 (assumption 10). -/
structure F64 where
  man : Int
  exp : Int
deriving DecidableEq, Repr

/-- Zero. -/
def F64.zero : F64 := { man := 0, exp := 0 }

/-- The least exponent of a binary64 significand. -/
def F64.minExp : Int := -1074

/-- `2^n` as a natural number, 1 for a negative exponent. -/
def twoPow (n : Int) : Nat := 2 ^ n.toNat

/-- The quotient `n / d` rounded to an integer, nearest, ties to even. -/
def divNearestEven (n d : Nat) : Nat :=
  let q := n / d
  let r := n % d
  if d < 2 * r then q + 1
  else if 2 * r = d then (if q % 2 = 0 then q else q + 1)
  else q

/-- `floor (log2 (m / d))`, for positive `m` and `d`. -/
def floorLog2 (m d : Nat) : Int :=
  let l : Int := (Nat.log2 m : Int) - (Nat.log2 d : Int)
  if d * twoPow l ≤ m * twoPow (-l) then l else l - 1

/-- The binary64 value nearest to `n / d * 2^e`, ties to even (rule R10). `d` is positive. -/
def F64.round (n : Int) (d : Nat) (e : Int) : F64 :=
  let m := n.natAbs
  if m = 0 then F64.zero
  else
    let u := max (floorLog2 m d - 52) (F64.minExp - e)
    let q := divNearestEven (m * twoPow (-u)) (d * twoPow u)
    if q = 0 then F64.zero
    else if q = 2 ^ 53 then { man := n.sign * 2 ^ 52, exp := u + e + 1 }
    else { man := n.sign * q, exp := u + e }

/-- `toF(n)`: an integer, exactly for `|n| < 2^53` (rule R10). -/
def F64.ofInt (n : Int) : F64 := F64.round n 1 0

/-- `F(d)` for the decimal literal `n / d` (rule R11). -/
def F64.lit (n : Int) (d : Nat) : F64 := F64.round n d 0

/-- The significand of a value at a lower or equal exponent. -/
def F64.manAt (a : F64) (e : Int) : Int := a.man * (twoPow (a.exp - e) : Int)

/-- `a +. b` (rule R10). -/
def F64.add (a b : F64) : F64 :=
  let e := min a.exp b.exp
  F64.round (a.manAt e + b.manAt e) 1 e

/-- `a -. b` (rule R10). -/
def F64.sub (a b : F64) : F64 :=
  let e := min a.exp b.exp
  F64.round (a.manAt e - b.manAt e) 1 e

/-- `a *. b` (rule R10). -/
def F64.mul (a b : F64) : F64 := F64.round (a.man * b.man) 1 (a.exp + b.exp)

/-- `a /. b` (rule R10), for a nonzero `b`. -/
def F64.div (a b : F64) : F64 := F64.round (a.man * b.man.sign) b.man.natAbs (a.exp - b.exp)

/-- `absF(a)` (rule R10). -/
def F64.abs (a : F64) : F64 := { man := (a.man.natAbs : Int), exp := a.exp }

/-- `a <. b` (rule R10). -/
def F64.lt (a b : F64) : Bool :=
  let e := min a.exp b.exp
  decide (a.manAt e < b.manAt e)

/-- `a <=. b` (rule R10). -/
def F64.le (a b : F64) : Bool :=
  let e := min a.exp b.exp
  decide (a.manAt e ≤ b.manAt e)

/-- `a >=. b` (rule R10). -/
def F64.ge (a b : F64) : Bool := b.le a

/-- `floor(x)` of a value that is not negative (rule R12). -/
def F64.floorNat (a : F64) : Nat := a.man.toNat * twoPow a.exp / twoPow (-a.exp)

/-- `store8(x)` (rule R12): clamp to [0, 255], then round half to even. -/
def store8 (x : F64) : Byte :=
  if x.le F64.zero then 0#8
  else if x.ge (F64.ofInt 255) then 255#8
  else
    let f := x.floorNat
    let d := x.sub (F64.ofInt f)
    let half := F64.lit 1 2
    if d.lt half then BitVec.ofNat 8 f
    else if half.lt d then BitVec.ofNat 8 (f + 1)
    else BitVec.ofNat 8 (if f % 2 = 0 then f else f + 1)

end Sys2Proof.Machine
end

