-- ==== Sys2Proof/Machine/Gray.lean ====
section
/-! DEFINITION. GRAY, the Grayscale Mapper (rules R110 to R118). -/

namespace Sys2Proof.Machine

/-- The luminance weight of R (rule R11). -/
def weightR : F64 := F64.lit 2125 10000

/-- The luminance weight of G (rule R11). -/
def weightG : F64 := F64.lit 7154 10000

/-- The luminance weight of B (rule R11). -/
def weightB : F64 := F64.lit 721 10000

/-- The effective alpha `a = toF(A) /. 255.0` (rule R111). -/
def effectiveAlpha (a : Byte) : F64 := (F64.ofInt a.toNat).div (F64.ofInt 255)

/-- One channel after the alpha stage: blended toward white when `aaw` is set and A < 255 (rule R112), premultiplied
otherwise (rule R113). -/
def alphaStage (c a : Byte) (aaw : Bool) : F64 :=
  let alpha := effectiveAlpha a
  if aaw && decide (a.toNat < 255) then
    let t := (F64.ofInt 1).sub alpha
    (F64.ofInt c.toNat).add ((F64.ofInt (255 - (c.toNat : Int))).mul t)
  else (F64.ofInt c.toNat).mul alpha

/-- The luminance (rule R114), grouped left to right. -/
def luma (r g b : F64) : F64 := ((r.mul weightR).add (g.mul weightG)).add (b.mul weightB)

/-- The brightness curve (rule R115), with `q = m /. 255.0`. -/
def bias (m : F64) (bri : Nat) : F64 :=
  let q := m.div (F64.ofInt 255)
  m.add ((((F64.ofInt ((bri : Int) - Config.brightNeutral)).mul ((F64.ofInt 1).sub q)).mul q).mul (F64.ofInt 2))

/-- `GrayPixel` (rules R110, R116). -/
def grayPixel (r g b a : Byte) (bri : Nat) (aaw : Bool) : Byte :=
  store8 (bias (luma (alphaStage r a aaw) (alphaStage g a aaw) (alphaStage b a aaw)) bri)

/-- One pixel of GRAY's loop (rule R110): the four channels at `s` (rule R63), the gray byte at `d`. -/
def grayAt (bri : Nat) (aaw : Bool) (s d : Nat) (m : Memory) : Memory :=
  m.write d (grayPixel (m.read s) (m.read (s + 1)) (m.read (s + 2)) (m.read (s + 3)) bri aaw)

/-- GRAY's loop over the pixels in ascending order (rules R110, R117). -/
def grayMemory (aaw : Bool) (p : Params) (m : Memory) : Memory :=
  (List.range (pixels p)).foldl
    (fun m i => grayAt p.bright.toNat aaw (p.src.toNat + 4 * i) (p.dst.toNat + i) m) m

/-- GRAY (rule R110). -/
def execGray (aaw : Bool) (s : State) : Host.Outcome State Fault Refusal :=
  runCommand (.gray aaw) (grayMemory aaw s.lat) s

end Sys2Proof.Machine
end

