-- ==== Sys2Proof/Machine/Pack.lean ====
section
/-! DEFINITION. PACK, the Bit Packer (rules R190 to R198). -/

namespace Sys2Proof.Machine

/-- One packed byte (rules R190 to R194): bit `7-d` of `pre` is set when pixel `8k+d` exists and is 0, and the byte is
complemented. `src` is the address of pixel `8k`, `left` how many pixels remain from it on. -/
def packByte (src left : Nat) (m : Memory) : Byte :=
  let pre := (List.range 8).foldl
    (fun pre d => if decide (d < left) && (m.read (src + d) == 0#8) then pre ||| (0x80#8 >>> d) else pre) 0#8
  pre ^^^ 0xFF#8

/-- PACK's loop over the output bytes (rule R190). -/
def packMemory (p : Params) (m : Memory) : Memory :=
  (List.range (packedBytes p)).foldl
    (fun m k => m.write (p.dst.toNat + k) (packByte (p.src.toNat + 8 * k) (pixels p - 8 * k) m)) m

/-- PACK (rule R190). -/
def execPack (s : State) : Host.Outcome State Fault Refusal := runCommand .pack (packMemory s.lat) s

end Sys2Proof.Machine
end

