-- ==== Sys2Proof/Machine/Reducers.lean ====
section
/-! DEFINITION. The three in-place reducers: THRESH (rules R140 to R142), DIFFUSE (rules R150 to R158) and HALFTONE (rules R170 to R179). -/

namespace Sys2Proof.Machine

/-- White is 255 and black is 0 (rule R64). -/
def blackOrWhite (white : Bool) : Byte := if white then 255#8 else 0#8

/-! ### THRESH -/

/-- The cut of rules R140, R142 and R152: white when the byte exceeds 128. -/
def quantize (v : Byte) : Byte := blackOrWhite (decide (Config.cut < v.toNat))

/-- THRESH's loop (rule R140). -/
def threshMemory (p : Params) (m : Memory) : Memory :=
  (List.range (pixels p)).foldl (fun m i => m.write (p.src.toNat + i) (quantize (m.read (p.src.toNat + i)))) m

/-- THRESH (rule R140). -/
def execThresh (s : State) : Host.Outcome State Fault Refusal := runCommand .thresh (threshMemory s.lat) s

/-! ### DIFFUSE -/

/-- The stored value of a target after one contribution (rule R154): `store8(toF(old) +. (toF(e * w) /. 16.0))`. -/
def spreadByte (old : Byte) (e w : Int) : Byte :=
  store8 ((F64.ofInt old.toNat).add ((F64.ofInt (e * w)).div (F64.ofInt 16)))

/-- `Spread(k, e, w)` at an address, when the target exists (rules R150, R153). -/
def spreadIf (cond : Bool) (addr : Nat) (e w : Int) (m : Memory) : Memory :=
  if cond then m.write addr (spreadByte (m.read addr) e w) else m

/-- The quantization error `e = v - n` (rule R152). -/
def quantError (v : Byte) : Int := (v.toNat : Int) - ((quantize v).toNat : Int)

/-- The visit of pixel `(x, y)` (rules R150, R153): east, southwest, south, southeast, each if it exists. -/
def diffuseAt (src w h x y : Nat) (m : Memory) : Memory :=
  let a := byteAddr src w x y
  let v := m.read a
  let e := quantError v
  let m0 := m.write a (quantize v)
  let m1 := spreadIf (decide (x + 1 < w)) (a + 1) e 7 m0
  let m2 := spreadIf (decide (y + 1 < h) && decide (1 ≤ x)) (a + w - 1) e 3 m1
  let m3 := spreadIf (decide (y + 1 < h)) (a + w) e 5 m2
  spreadIf (decide (y + 1 < h) && decide (x + 1 < w)) (a + w + 1) e 1 m3

/-- DIFFUSE's loops: rows top to bottom, each left to right (rules R150, R151). -/
def diffuseMemory (p : Params) (m : Memory) : Memory :=
  (List.range p.height.toNat).foldl
    (fun m y =>
      (List.range p.width.toNat).foldl
        (fun m x => diffuseAt p.src.toNat p.width.toNat p.height.toNat x y m) m) m

/-- DIFFUSE (rule R150). -/
def execDiffuse (s : State) : Host.Outcome State Fault Refusal := runCommand .diffuse (diffuseMemory s.lat) s

/-! ### HALFTONE -/

/-- `HT_CENTER`, 1.5 (rules R7, R174). -/
def halftoneCenter : F64 := F64.lit 3 2

/-- The offsets 0 .. 3 of a block. -/
def blockOffsets : List Nat := List.range Config.halftoneEdge

/-- `Ssum`, the exact sum of the 16 bytes of the block whose top left pixel is at address `a` (rules R170, R172). -/
def blockSum (w a : Nat) (m : Memory) : Nat :=
  (blockOffsets.flatMap fun yy => blockOffsets.map fun xx => (m.read (a + yy * w + xx)).toNat).sum

/-- The dot radius of a block sum (rules R172, R173). -/
def dotRadius (ssum : Nat) : F64 :=
  let avg := ((F64.ofInt ssum).div (F64.ofInt 16)).div (F64.ofInt 255)
  ((F64.ofInt 1).sub avg).mul (F64.ofInt 4)

/-- Whether an offset is white for a radius (rule R174). -/
def halftoneWhite (r : F64) (xx yy : Nat) : Bool :=
  (((F64.ofInt xx).sub halftoneCenter).abs).ge r || (((F64.ofInt yy).sub halftoneCenter).abs).ge r

/-- One block: accumulate, then emit (rules R170, R176). -/
def halftoneBlock (w a : Nat) (m : Memory) : Memory :=
  let r := dotRadius (blockSum w a m)
  blockOffsets.foldl
    (fun m yy =>
      blockOffsets.foldl (fun m xx => m.write (a + yy * w + xx) (blackOrWhite (halftoneWhite r xx yy))) m) m

/-- The complete blocks, in row order (rules R170, R171). -/
def halftoneBlocks (p : Params) (m : Memory) : Memory :=
  let w := p.width.toNat
  let edge := Config.halftoneEdge
  (List.range (p.height.toNat / edge)).foldl
    (fun m yb =>
      (List.range (w / edge)).foldl (fun m xb => halftoneBlock w (byteAddr p.src.toNat w (edge * xb) (edge * yb)) m) m)
    m

/-- The remainder: every pixel outside the complete blocks becomes white (rules R170, R175). -/
def halftoneRemainder (p : Params) (m : Memory) : Memory :=
  let w := p.width.toNat
  let h := p.height.toNat
  let edge := Config.halftoneEdge
  (List.range h).foldl
    (fun m y =>
      (List.range w).foldl
        (fun m x =>
          if decide (edge * (w / edge) ≤ x) || decide (edge * (h / edge) ≤ y) then
            m.write (byteAddr p.src.toNat w x y) (blackOrWhite true)
          else m)
        m)
    m

/-- HALFTONE's memory: the blocks, then the remainder (rule R170). -/
def halftoneMemory (p : Params) (m : Memory) : Memory := halftoneRemainder p (halftoneBlocks p m)

/-- HALFTONE (rule R170). -/
def execHalftone (s : State) : Host.Outcome State Fault Refusal := runCommand .halftone (halftoneMemory s.lat) s

end Sys2Proof.Machine
end

