-- ==== Sys2Proof/Machine/Rotate.lean ====
section
/-! DEFINITION. ROTATE, the Pixel Rotator (rules R210 to R215). -/

namespace Sys2Proof.Machine

/-- The input pixel number of output pixel `(x', y')`: column `y'`, row `H-1-x'` (rules R210, R211). -/
def rotateSource (w h x y : Nat) : Nat := (h - 1 - x) * w + y

/-- ROTATE's loops: output rows, then output columns; each pixel is moved whole (rules R210, R213). -/
def rotateMemory (p : Params) (m : Memory) : Memory :=
  let w := p.width.toNat
  let h := p.height.toNat
  (List.range w).foldl
    (fun m y =>
      (List.range h).foldl
        (fun m x =>
          m.write32 (p.dst.toNat + 4 * (y * h + x)) (m.read32 (p.src.toNat + 4 * rotateSource w h x y))) m) m

/-- ROTATE (rule R210). -/
def execRotate (s : State) : Host.Outcome State Fault Refusal := runCommand .rotate (rotateMemory s.lat) s

end Sys2Proof.Machine
end

