-- ==== Sys2Proof/Machine/Dispatch.lean ====
section
/-! DEFINITION. The meaning of each instruction: one arm per constructor of `Instr`. -/

namespace Sys2Proof.Machine

def exec (i : Instr) (s : State) : Host.Outcome State Fault Refusal :=
  match i with
  | .gray aaw => Sys2Proof.Machine.execGray aaw s
  | .thresh => Sys2Proof.Machine.execThresh s
  | .diffuse => Sys2Proof.Machine.execDiffuse s
  | .halftone => Sys2Proof.Machine.execHalftone s
  | .pack => Sys2Proof.Machine.execPack s
  | .rotate => Sys2Proof.Machine.execRotate s
  | .start irqEn => Sys2Proof.Machine.execStart irqEn s
  | .startBusy irqEn => Sys2Proof.Machine.execStartBusy irqEn s
  | .srst => Sys2Proof.Machine.execSrst s
  | .clear done err ign => Sys2Proof.Machine.execClear done err ign s

end Sys2Proof.Machine
end

