-- ==== Sys2Proof/Machine/Bus.lean ====
section
/-! DEFINITION. The host's accesses: the register window (rules R20 to R32, R69, R83, R230, R239), system memory (rules R62, R78) and
the interrupt line (rule R270). -/

namespace Sys2Proof.Machine

/-- The defined registers (rule R20). -/
inductive Reg where
  | id
  | ctrl
  | status
  | cmd
  | width
  | height
  | bright
  | srcAddr
  | dstAddr
  | progress
  | errAddr
deriving DecidableEq, Repr

/-- The register at an offset of the window; none for the reserved offsets (rules R20, R32). -/
def regAt (offset : Nat) : Option Reg :=
  match offset with
  | 0x00 => some .id
  | 0x04 => some .ctrl
  | 0x08 => some .status
  | 0x0C => some .cmd
  | 0x10 => some .width
  | 0x14 => some .height
  | 0x18 => some .bright
  | 0x1C => some .srcAddr
  | 0x20 => some .dstAddr
  | 0x24 => some .progress
  | 0x28 => some .errAddr
  | _ => none

/-- The offset of a register (rule R20). -/
def offsetOf : Reg → Nat
  | .id => 0x00
  | .ctrl => 0x04
  | .status => 0x08
  | .cmd => 0x0C
  | .width => 0x10
  | .height => 0x14
  | .bright => 0x18
  | .srcAddr => 0x1C
  | .dstAddr => 0x20
  | .progress => 0x24
  | .errAddr => 0x28

/-- The value of a register (rules R21 to R31). -/
def readReg (r : Reg) (s : State) : Word :=
  match r with
  | .id => Config.deviceId
  | .ctrl => ctrlWord s
  | .status => statusWord s
  | .cmd => s.regs.cmd
  | .width => s.regs.width
  | .height => s.regs.height
  | .bright => s.regs.bright
  | .srcAddr => s.regs.src
  | .dstAddr => s.regs.dst
  | .progress => s.progress
  | .errAddr => s.errAddr

/-- What a read at an offset returns: 0 at a reserved offset (rules R32, R239). -/
def readOffset (offset : Nat) (s : State) : Word :=
  match regAt offset with
  | some r => readReg r s
  | none => 0#32

/-- Set the operand registers. -/
def State.setRegs (s : State) (p : Params) : State := { s with regs := p }

/-- A CTRL write (rules R22, R231, R236, R237, R240): a control operation, or only a new IRQ_EN. -/
def writeCtrl (v : Word) (s : State) : Host.Outcome State Fault Refusal :=
  match decodeCtrl s.busy v with
  | .instr i => exec i s
  | .reject _ => .next (s.setIrqEn (v.getLsbD 2))

/-- A STATUS write (rule R238). -/
def writeStatus (v : Word) (s : State) : Host.Outcome State Fault Refusal :=
  match decodeStatus v with
  | .instr i => exec i s
  | .reject _ => .next s

/-- A 32-bit write at an offset (rule R230): read-only registers and reserved offsets ignore it (rules R21, R30 to R32). -/
def writeOffset (offset : Nat) (v : Word) (s : State) : Host.Outcome State Fault Refusal :=
  match regAt offset with
  | some .ctrl => writeCtrl v s
  | some .status => writeStatus v s
  | some .cmd => .next (s.setRegs { s.regs with cmd := v })
  | some .width => .next (s.setRegs { s.regs with width := v })
  | some .height => .next (s.setRegs { s.regs with height := v })
  | some .bright => .next (s.setRegs { s.regs with bright := v })
  | some .srcAddr => .next (s.setRegs { s.regs with src := v })
  | some .dstAddr => .next (s.setRegs { s.regs with dst := v })
  | some .id => .next s
  | some .progress => .next s
  | some .errAddr => .next s
  | none => .next s

/-- The number of bytes of an access. -/
def Width.bytes : Width → Nat
  | .byte => 1
  | .half => 2
  | .word => 4

/-- The addresses of a host access's bytes, in order. Addresses past the top of the 32-bit space wrap (assumption 11). -/
def accessBytes (addr : Word) (w : Width) : List Nat :=
  (List.range w.bytes).map fun k => (addr + BitVec.ofNat 32 k).toNat

/-- How a host access is routed (rules R20, R61, R69). -/
inductive Route where
  /-- One aligned 32-bit access of the register at this offset. -/
  | register (offset : Nat)
  /-- Some byte is in the window, but the access is not one aligned 32-bit access (rule R69). -/
  | badRegister
  /-- System memory. -/
  | memory (bytes : List Nat)
deriving DecidableEq, Repr

/-- The route of a host access. -/
def route (p : Platform) (addr : Word) (w : Width) : Route :=
  let bytes := accessBytes addr w
  if bytes.any (fun a => p.window.has a) then
    (if bytes.all (fun a => p.window.has a) && decide (w = .word) && decide ((addr.toNat - p.mmioBase.toNat) % 4 = 0) then
      .register (addr.toNat - p.mmioBase.toNat)
    else .badRegister)
  else .memory bytes

/-- Set the record of the host. -/
def State.setHost (s : State) (h : HostView) : State := { s with host := h }

/-- Record what a read returned. -/
def State.returned (s : State) (v : Word) : State := s.setHost { s.host with lastRead := some v }

/-- The host has seen that no command runs: it holds all its buffers again (rules R77, R294, R295). -/
def State.endSeen (s : State) : State := s.setHost { s.host with borrows := [] }

/-- The commands, on any instance, whose ranges the host has lent to an engine (rules R276, R294). That the ranges of
another instance's command come back at its end event is the model's choice (assumption 12, DESIGN CHOICE, safe). -/
def State.lentClaims (s : State) : List Claim := s.host.borrows ++ s.others

/-- Whether an address lies in a range of a command whose end the host has not seen (rules R78, R294). -/
def State.lent (s : State) (a : Nat) : Bool := s.lentClaims.any fun c => c.reads.has a || c.writes.has a

/-- Whether an address lies in a write range of such a command (rules R78, R295). -/
def State.lentForWriting (s : State) (a : Nat) : Bool := s.lentClaims.any fun c => c.writes.has a

/-- A host read of a register (rule R239). It has no effect on the device (rule R72); when it shows that BUSY is 0, the
host has seen the command's end (rule R294). -/
def loadRegister (offset : Nat) (s : State) : State :=
  let s1 := s.returned (readOffset offset s)
  if decide (regAt offset = some .status) && !s.busy then s1.endSeen else s1

/-- The byte that a host read of memory returns: unspecified in a lent write range (rules R78, R295), memory's byte
elsewhere. -/
def hostByte (s : State) (a : Nat) : Byte := if s.lentForWriting a then Config.freeByte s.freeCount a else s.mem.read a

/-- Bytes as a little-endian word (rule R62). -/
def littleEndian : List Byte → Word
  | [] => 0#32
  | b :: rest => (b.zeroExtend 32) ||| (littleEndian rest <<< 8)

/-- A host read of system memory (rules R62, R78, R302). -/
def loadMemory (bytes : List Nat) (s : State) : Host.Outcome State Fault Refusal :=
  if bytes.any (fun a => covered s.host.stale a && !s.lentForWriting a) then .fault (.hostHazard .coherence)
  else .next ((s.returned (littleEndian (bytes.map (hostByte s)))).draw 1)

/-- Write successive bytes of a word to the listed addresses (rule R62). -/
def storeBytes (m : Memory) (bytes : List Nat) (v : Word) : Memory :=
  match bytes with
  | [] => m
  | a :: rest => storeBytes (m.write a (byteOfWord v 0)) rest (v >>> 8)

/-- What the host's caches hold after a store, on a platform without coherence (rule R302). -/
def State.markDirty (s : State) (bytes : List Nat) : State :=
  if s.platform.coherent then s
  else
    s.setHost { s.host with dirty := bytes.map (fun a => ({ base := a, size := 1 } : Region)) ++ s.host.dirty }

/-- A host write to system memory (rules R62, R78, R294). A byte of a command's output that the host rewrites before it
invalidates its caches stays an output for rule R302, so that reading it back is HostHazard (assumption 9, DESIGN CHOICE,
safe). -/
def storeMemory (bytes : List Nat) (v : Word) (s : State) : Host.Outcome State Fault Refusal :=
  if bytes.any (fun a => s.lent a) then .fault (.hostHazard .ownership)
  else .next ((s.setMem (storeBytes s.mem bytes v)).markDirty bytes)

/-- The host samples an interrupt input (rule R270). A high level of the device's line shows the command's end (rule R77). -/
def senseIrq (line : Nat) (s : State) : State :=
  let s1 := s.returned (BitVec.ofNat 32 (bit (irqLevel s line)))
  if irqLevel s line then s1.endSeen else s1

/-- The host cleans its caches for a range (rule R302). -/
def cleanCaches (r : Region) (s : State) : State :=
  s.setHost { s.host with dirty := removeRegion s.host.dirty r }

/-- The addresses in a range that the host wrote and has not cleaned. -/
def dirtyIn (r : Region) (dirty : List Region) : List Nat :=
  (dirty.flatMap Region.addresses).filter fun a => r.has a

/-- The host invalidates its caches for a range (rule R302). Bytes that it wrote there and never cleaned are lost or not:
they become unspecified (assumption 9). -/
def invalidateCaches (r : Region) (s : State) : State :=
  ((s.setMem (s.mem.overwrite (dirtyIn r s.host.dirty) (Config.freeByte s.freeCount))).setHost
    { s.host with dirty := removeRegion s.host.dirty r, stale := removeRegion s.host.stale r }).draw 1

/-- One host operation (rule R14). -/
def hostOp (op : HostOp) (s : State) : Host.Outcome State Fault Refusal :=
  match op with
  | .store addr w v =>
    match route s.platform addr w with
    | .register offset => writeOffset offset v s
    | .badRegister => .fault (.hostHazard .registerAccess)
    | .memory bytes => storeMemory bytes v s
  | .load addr w =>
    match route s.platform addr w with
    | .register offset => .next (loadRegister offset s)
    | .badRegister => .fault (.hostHazard .registerAccess)
    | .memory bytes => loadMemory bytes s
  | .senseIrq line => .next (senseIrq line s)
  | .clean r => .next (cleanCaches r s)
  | .invalidate r => .next (invalidateCaches r s)

/-- The host's 32-bit write of a register, `wr NAME, v` (rule R98). -/
def wr (p : Platform) (r : Reg) (v : Word) : Event :=
  .host (.store (p.mmioBase + BitVec.ofNat 32 (offsetOf r)) .word v)

/-- The host's 32-bit read of a register, `rd NAME` (rule R98). -/
def rd (p : Platform) (r : Reg) : Event := .host (.load (p.mmioBase + BitVec.ofNat 32 (offsetOf r)) .word)

end Sys2Proof.Machine
end

