-- ==== Sys2Proof/Machine/Schedule.lean ====
section
/-! DEFINITION. The agents' turns (rules R14, R234, R242, R276): the engine, the platform's reset, other device instances, and which of
them acts in a step. -/

namespace Sys2Proof.Machine

/-- Set the events to come. -/
def State.setPending (s : State) (es : List Event) : State := { s with pending := es }

/-- Set the commands that run on other instances. -/
def State.setOthers (s : State) (cs : List Claim) : State := { s with others := cs }

/-- The engine takes the steps that end its command (rules R234, R235, R265). In IDLE it does nothing (rule R278). -/
def engineFinish (s : State) : Host.Outcome State Fault Refusal :=
  match s.phase with
  | .idle => .next s
  | .run =>
    match decodeCommand s.lat.cmd with
    | .instr i => exec i s
    | .reject _ => .refused .latchedNoCommand

/-- The engine works on without ending its command: PROGRESS may rise within its bounds (rules R30, S6). What it has
written so far cannot be seen (rules R34, R78). -/
def engineWork (s : State) : State :=
  match s.phase with
  | .idle => s
  | .run =>
    match decodeCommand s.lat.cmd with
    | .instr i => (s.setProgress (freeProgress s.freeCount (elements i s.lat) s.progress)).draw 1
    | .reject _ => s

/-- The command that the device runs, as a claim on memory. -/
def runningClaim (s : State) : Option Claim :=
  match s.phase with
  | .idle => none
  | .run =>
    match decodeCommand s.lat.cmd with
    | .instr i => some (claimOf i s.lat)
    | .reject _ => none

/-- The commands that run at present, on this device and on the other instances (rule R303). -/
def runningClaims (s : State) : List Claim := (runningClaim s).toList ++ s.others

/-- Another instance starts a command: HostHazard if it shares written bytes with any running one (rules R276, R303). -/
def otherStarts (c : Claim) (s : State) : Host.Outcome State Fault Refusal :=
  if (runningClaims s).any (fun d => c.conflicts d) then .fault (.hostHazard .sharing)
  else .next (s.setOthers (c :: s.others))

/-- Another instance ends a command: its write range holds what that instance wrote, which is unspecified here (assumption
12). A claim that is not running there changes nothing. -/
def otherEnds (c : Claim) (s : State) : State :=
  if s.others.contains c then
    ((s.setMem (s.mem.scramble s.freeCount c.writes)).setOthers (s.others.erase c)).draw 1
  else s

/-- One event. -/
def deliver (e : Event) (s : State) : Host.Outcome State Fault Refusal :=
  match e with
  | .host op => hostOp op s
  | .work => .next (engineWork s)
  | .finish => engineFinish s
  | .powerReset => .next (deviceReset s)
  | .otherStart c => otherStarts c s
  | .otherEnd c => .next (otherEnds c s)

/-- One turn: the next event if there is one. Otherwise the engine gets its turn, so that a started command ends (rules
R242, R304, S8); an idle device does nothing. -/
def turn (s : State) : Host.Outcome State Fault Refusal :=
  match s.pending with
  | [] => engineFinish s
  | e :: rest => deliver e (s.setPending rest)

/-- The events that make the engine's end of its command the next turn. -/
def finishNext (es : List Event) : List Event :=
  match es with
  | [] => []
  | e :: rest => .finish :: e :: rest

/-- A state whose next turn runs the command word `w`: the word is latched, the engine runs it, and its turn is next
(assumption 7). -/
def State.withCommand (s : State) (w : Word) : State :=
  { s with lat := { s.lat with cmd := w }, phase := .run, pending := finishNext s.pending }

/-- A state whose next turn is the host's write of `w` to a register. -/
def State.withWrite (s : State) (r : Reg) (w : Word) : State := { s with pending := wr s.platform r w :: s.pending }

/-- A state whose next turn runs the instruction word `w` read at `port` (assumption 7): a command word is latched in
phase RUN, a control word is the host's next write, in the phase that the port says. -/
def State.placeWord (s : State) (port : Port) (w : Word) : State :=
  match port with
  | .cmd => s.withCommand w
  | .ctrl busy => { s.withWrite .ctrl w with phase := if busy then .run else .idle }
  | .status => s.withWrite .status w

end Sys2Proof.Machine
end

