-- ==== Sys2Proof/Machine/Step.lean ====
section
/-! DEFINITION. The step function, and how a word is placed where the next step runs it. -/

namespace Sys2Proof.Machine

/-- One step of the machine: one agent's turn (rule R14). -/
def step (s : State) : Host.Outcome State Fault Refusal := turn s

/-- The state `s` with the instruction of an opcode-table row placed so that the next step runs it (assumption 7). -/
def State.withFetchWord (s : State) (nbits w : Nat) : State :=
  s.placeWord (tablePort (tableWord nbits w)) (tableWord nbits w)

end Sys2Proof.Machine
end

