-- ==== Sys2Proof/WellFormed.lean ====
section
/-! DEFINITION. Well-formed requests. Every term of `Instr` is a well-formed instruction (its fields are single bits), so what
can be ill-formed is a command together with its operands. Each check below is one condition of rule R262, written from rules
R67, R68, R73 and R74 and independently of the machine's `validate`, with which it can be compared. -/

namespace Sys2Proof

/-- The request names one of the six commands of rule R91, not a control operation. -/
def Request.isCommand : Instr → Bool
  | .gray _ => true
  | .thresh => true
  | .diffuse => true
  | .halftone => true
  | .pack => true
  | .rotate => true
  | .start _ => false
  | .startBusy _ => false
  | .srst => false
  | .clear _ _ _ => false

/-- The number of pixels L = W*H (rule R67). -/
def Request.area (p : Params) : Nat := p.width.toNat * p.height.toNat

/-- How many bytes the command reads at SRC (rule R67). -/
def Request.sourceBytes (i : Instr) (p : Params) : Nat :=
  match i with
  | .gray _ => 4 * Request.area p
  | .rotate => 4 * Request.area p
  | _ => Request.area p

/-- How many bytes the command writes at DST; 0 for the reducers, which do not read DST_ADDR (rules R29, R67). -/
def Request.targetBytes (i : Instr) (p : Params) : Nat :=
  match i with
  | .gray _ => Request.area p
  | .pack => (Request.area p + 7) / 8
  | .rotate => 4 * Request.area p
  | _ => 0

/-- Neither dimension exceeds MAX_DIM (rule R262, PARAM (W, H)). -/
def Request.dimsOk (p : Params) : Bool :=
  decide (p.width.toNat ≤ Config.maxDim) && decide (p.height.toNat ≤ Config.maxDim)

/-- GRAY's brightness does not exceed 255 (rule R262, PARAM (BRI)). -/
def Request.brightOk (i : Instr) (p : Params) : Bool :=
  match i with
  | .gray _ => decide (p.bright.toNat ≤ Config.maxBright)
  | _ => true

/-- The RGBA ranges start at multiples of 4 (rule R68). -/
def Request.aligned (i : Instr) (p : Params) : Bool :=
  match i with
  | .gray _ => decide (p.src.toNat % 4 = 0)
  | .rotate => decide (p.src.toNat % 4 = 0) && decide (p.dst.toNat % 4 = 0)
  | _ => true

/-- The non-empty ranges end at or below the top of the address space (rule R73). -/
def Request.inRange (i : Instr) (p : Params) : Bool :=
  (decide (Request.sourceBytes i p = 0) || decide (p.src.toNat + Request.sourceBytes i p ≤ Config.addressSpace)) &&
    (decide (Request.targetBytes i p = 0) || decide (p.dst.toNat + Request.targetBytes i p ≤ Config.addressSpace))

/-- The source and the destination share no byte (rule R74). -/
def Request.disjoint (i : Instr) (p : Params) : Bool :=
  decide (Request.targetBytes i p = 0) || decide (p.src.toNat + Request.sourceBytes i p ≤ p.dst.toNat) ||
    decide (p.dst.toNat + Request.targetBytes i p ≤ p.src.toNat)

/-- A well-formed request: every check of rule R262 holds. -/
def Request.wf (i : Instr) (p : Params) : Bool :=
  Request.isCommand i && Request.dimsOk p && Request.brightOk i p && Request.aligned i p && Request.inRange i p &&
    Request.disjoint i p

end Sys2Proof
end

