-- ==== Sys2Proof/Safety.lean ====
section
/-! DEFINITION. The terms the claims use: the invariant of the machine, when a command runs without a bus error, what a command's end
leaves alone, the ignored bits of an instruction, and reference forms of the arithmetic and of two commands, written from the rules
without the machine's memory. -/

namespace Sys2Proof.Machine

/-! ### The invariant -/

/-- What STATUS and ERR_ADDR say together: DONE comes with code 0, ERR with another code, and ERR_ADDR is 0 for codes 0, 1
and 2 (rules R235, R260, R263). -/
def Status.consistent (t : Status) (errAddr : Word) : Bool :=
  (!t.done || decide (t.errCode = .none)) && (!t.err || decide (t.errCode ≠ .none)) &&
    (decide (2 < t.errCode.toNat) || decide (errAddr = 0#32))

/-- What holds while a command runs: the latches hold an accepted command, PROGRESS is within its bounds (rule R30), START has
cleared DONE, ERR, ERR_CODE and ERR_ADDR (rule R231), and the command's ranges are lent to the engine (rule R294). -/
def State.running (s : State) : Bool :=
  match s.phase with
  | .idle => true
  | .run =>
    match validate s.lat with
    | .accept i =>
      decide (s.progress.toNat ≤ elements i s.lat) && !s.status.done && !s.status.err &&
        decide (s.status.errCode = .none) && decide (s.errAddr = 0#32) && s.host.borrows.contains (claimOf i s.lat)
    | .reject _ _ => false

/-- The invariant of the machine: canonical memory, consistent status, a well-formed running command, and a register
window at a multiple of 256 (rule R7). -/
def State.inv (s : State) : Bool :=
  s.mem.wf && s.status.consistent s.errAddr && s.running && decide (s.platform.mmioBase.toNat % 256 = 0)

/-! ### A command's run and its end -/

/-- Command `i` is validated, runs, and has no failing bus access: it is about to complete (rules R234, R235). -/
def Runs (i : Instr) (s : State) : Prop :=
  s.phase = .run ∧ validate s.lat = .accept i ∧ busFailures s.platform i s.lat = []

/-- Command `i` is validated, runs, and has a failing bus access (rule R265). -/
def RunsIntoBusError (i : Instr) (s : State) : Prop :=
  s.phase = .run ∧ validate s.lat = .accept i ∧ busFailures s.platform i s.lat ≠ []

/-- What the end of a command leaves alone: IRQ_EN, IGN, the operand registers, the platform, the other agents and, on a
coherent platform, all of the record of the host. (The latches outside a command are unspecified, rule R33, so nothing
is said of them.) -/
def KeepsAllButOutcome (s t : State) : Prop :=
  t.irqEn = s.irqEn ∧ t.status.ign = s.status.ign ∧ t.regs = s.regs ∧ t.platform = s.platform ∧ t.others = s.others ∧
    t.pending = s.pending ∧ t.host.borrows = s.host.borrows ∧ t.host.dirty = s.host.dirty ∧
    t.host.lastRead = s.host.lastRead ∧ (s.platform.coherent = true → t.host.stale = s.host.stale)

/-- The registers and the phase that completion leaves (rule R235), and all that it does not write. -/
def Completed (i : Instr) (s t : State) : Prop :=
  t.progress.toNat = elements i s.lat ∧ t.status.errCode = .none ∧ t.status.done = true ∧ t.phase = .idle ∧
    t.status.err = s.status.err ∧ t.errAddr = s.errAddr ∧ KeepsAllButOutcome s t

/-- Every byte outside a range reads as before. -/
def SameOutside (r : Region) (s t : State) : Prop := ∀ a, r.has a = false → t.mem.read a = s.mem.read a

/-- Every byte of the `n` bytes at `base` is 0 or 255: a BinaryBuffer (rule R64). -/
def BinaryBuffer (m : Memory) (base n : Nat) : Prop := ∀ i, i < n → m.read (base + i) = 0#8 ∨ m.read (base + i) = 255#8

/-- The bits of an instruction's word that the spec says are ignored (rules R92, R22, R23, R240). -/
def ignoredBits : Instr → Word
  | .gray _ => 0x00000000#32
  | .thresh => 0x00000100#32
  | .diffuse => 0x00000100#32
  | .halftone => 0x00000100#32
  | .pack => 0x00000100#32
  | .rotate => 0x00000100#32
  | .start _ => 0xFFFFFFF8#32
  | .startBusy _ => 0xFFFFFFF8#32
  | .srst => 0xFFFFFFFD#32
  | .clear _ _ _ => 0xFFFFFFF1#32

/-- A host store of register traffic: it reaches the register window, not system memory. -/
def reachesWindow (p : Platform) (addr : Word) (w : Width) : Bool := (accessBytes addr w).any fun a => p.window.has a

/-! ### Binary64 over the rationals (rule R10) -/

/-- The number that a binary64 value stands for. -/
def F64.value (a : F64) : ℚ := (a.man : ℚ) * (2 : ℚ) ^ a.exp

/-- The significand has at most 53 bits and the exponent is not below the least one. -/
def F64.representable (a : F64) : Prop := a.man.natAbs < 2 ^ 53 ∧ F64.minExp ≤ a.exp

/-- `x` is the binary64 value nearest to `v`, and at a tie the one with the even significand (rule R10). -/
def F64.isNearest (x : F64) (v : ℚ) : Prop :=
  x.representable ∧
    ∀ y : F64, y.representable →
      |x.value - v| ≤ |y.value - v| ∧ (|x.value - v| = |y.value - v| → y.value ≠ x.value → x.man % 2 = 0)

/-! ### DIFFUSE over an array of integers (rules R150 to R155) -/

/-- `n / 16` rounded to an integer, ties to even (rule R154). -/
def roundSixteenths (n : Int) : Int :=
  if 8 < n % 16 then n / 16 + 1
  else if n % 16 = 8 then (if n / 16 % 2 = 0 then n / 16 else n / 16 + 1)
  else n / 16

/-- Clamp to [0, 255] (rule R12). -/
def clampByte (n : Int) : Int := max 0 (min 255 n)

/-- The stored value of a target, as rule R154's integer formula. -/
def spreadInt (old e w : Int) : Int := clampByte (roundSixteenths (16 * old + w * e))

/-- The visit of pixel `p` of a `w` by `h` image given as a function of the pixel index. -/
def visitInt (w h p : Nat) (f : Nat → Int) (k : Nat) : Int :=
  let x := p % w
  let y := p / w
  let n : Int := if 128 < f p then 255 else 0
  let e := f p - n
  if k = p then n
  else if x + 1 < w ∧ k = p + 1 then spreadInt (f k) e 7
  else if y + 1 < h ∧ 1 ≤ x ∧ k = p + w - 1 then spreadInt (f k) e 3
  else if y + 1 < h ∧ k = p + w then spreadInt (f k) e 5
  else if y + 1 < h ∧ x + 1 < w ∧ k = p + w + 1 then spreadInt (f k) e 1
  else f k

/-- Floyd-Steinberg error diffusion in raster order, on integers. -/
def diffuseInt (w h : Nat) (f : Nat → Int) : Nat → Int :=
  (List.range (w * h)).foldl (fun f p => visitInt w h p f) f

/-! ### HALFTONE by the exact level table (rules R171, R175, R177) -/

/-- Whether a pixel of a block is black, by the table of rule R177. -/
def levelBlack (ssum xx yy : Nat) : Bool :=
  decide (ssum < 2550) || (decide (ssum < 3570) && decide (1 ≤ xx ∧ xx ≤ 2 ∧ 1 ≤ yy ∧ yy ≤ 2))

/-- The sum of the block that holds pixel `(x, y)` of an image given as a function of column and row. -/
def blockSumOf (f : Nat → Nat → Nat) (x y : Nat) : Nat :=
  ((List.range 4).flatMap fun yy => (List.range 4).map fun xx => f (4 * (x / 4) + xx) (4 * (y / 4) + yy)).sum

/-- The output pixel `(x, y)` of HALFTONE on a `w` by `h` image. -/
def halftonePixel (w h : Nat) (f : Nat → Nat → Nat) (x y : Nat) : Nat :=
  if x < 4 * (w / 4) ∧ y < 4 * (h / 4) ∧ levelBlack (blockSumOf f x y) (x % 4) (y % 4) = true then 0 else 255

/-! ### PACK and ROTATE -/

/-- The test-only inverse of PACK (rule R198): pixel `i` of a bitstream at `base`. -/
def unpackPixel (m : Memory) (base i : Nat) : Byte :=
  if (m.read (base + i / 8)).getLsbD (7 - i % 8) then 255#8 else 0#8

/-- The input pixel number of output pixel number `j` of a rotation of a `w` by `h` image, whose output is `h` wide
(rule R211). -/
def rotateIndex (w h j : Nat) : Nat := rotateSource w h (j % h) (j / h)

end Sys2Proof.Machine
end

