-- ==== Sys2Proof/Certificates/Slice0/Obligations.lean ====
section
/-! DEFINITION. The statements for the provers. Each docstring names the rules of spec/ that the statement formalises. -/

open Sys2Proof Sys2Proof.Machine

/-! ### Encoding -/

/-- Rules R96 and R97: every 32-bit word at CMD decodes as its row of the opcode table says, only the listed words are
commands, and START rejects every other word with ERR_ILLEGAL. -/
def Obligations.CommandWordsMatchTheTable : Prop :=
  ∀ c : Word,
    (∀ aaw, decodeCommand c = .instr (.gray aaw) ↔ c &&& 0xFFFFFEFF#32 = 0x00000001#32 ∧ aaw = c.getLsbD 8) ∧
    (decodeCommand c = .instr .thresh ↔ c &&& 0xFFFFFEFF#32 = 0x00000002#32) ∧
    (decodeCommand c = .instr .diffuse ↔ c &&& 0xFFFFFEFF#32 = 0x00000003#32) ∧
    (decodeCommand c = .instr .halftone ↔ c &&& 0xFFFFFEFF#32 = 0x00000004#32) ∧
    (decodeCommand c = .instr .pack ↔ c &&& 0xFFFFFEFF#32 = 0x00000005#32) ∧
    (decodeCommand c = .instr .rotate ↔ c &&& 0xFFFFFEFF#32 = 0x00000006#32) ∧
    ((∃ i, decodeCommand c = .instr i) ↔
      c ∈ [0x00000001#32, 0x00000002#32, 0x00000003#32, 0x00000004#32, 0x00000005#32, 0x00000006#32, 0x00000101#32,
        0x00000102#32, 0x00000103#32, 0x00000104#32, 0x00000105#32, 0x00000106#32]) ∧
    ∀ p : Params, p.cmd = c → (∀ i, decodeCommand c ≠ .instr i) → validate p = .reject .illegal 0#32

/-- Rules R22, R231, R236 to R238 and R240: every value written to CTRL or STATUS decodes as its row of the opcode table says, SRST
before START. -/
def Obligations.ControlWordsMatchTheTable : Prop :=
  ∀ (busy : Bool) (v : Word),
    (decodeCtrl busy v = .instr .srst ↔ v &&& 0x00000002#32 = 0x00000002#32) ∧
    (∀ e, decodeCtrl busy v = .instr (.start e) ↔
      busy = false ∧ v &&& 0x00000003#32 = 0x00000001#32 ∧ e = decide (v &&& 0x00000004#32 = 0x00000004#32)) ∧
    (∀ e, decodeCtrl busy v = .instr (.startBusy e) ↔
      busy = true ∧ v &&& 0x00000003#32 = 0x00000001#32 ∧ e = decide (v &&& 0x00000004#32 = 0x00000004#32)) ∧
    (decodeCtrl busy v = .reject .plainCtrlWrite ↔ v &&& 0x00000003#32 = 0x00000000#32) ∧
    decodeStatus v =
      .instr (.clear (decide (v &&& 0x00000002#32 = 0x00000002#32)) (decide (v &&& 0x00000004#32 = 0x00000004#32))
        (decide (v &&& 0x00000008#32 = 0x00000008#32)))

/-- Decode and encode agree: the encoder's word, its ignored bits set in any way and laid out as bytes on the bus, decodes
to the instruction (rules R62, R92, R96, R240). -/
def Obligations.DecodeOfEncodeIsTheInstruction : Prop :=
  ∀ (i : Instr) (noise : Word),
    decodeBytes (portOf i)
        [byteOfWord (encode i ||| (noise &&& ignoredBits i)) 0, byteOfWord (encode i ||| (noise &&& ignoredBits i)) 1,
          byteOfWord (encode i ||| (noise &&& ignoredBits i)) 2, byteOfWord (encode i ||| (noise &&& ignoredBits i)) 3] =
      .instr i

/-- Sanity: words of rules R97 to R99 decode to the instructions they are written for. -/
def Obligations.WrittenWordsDecode : Prop :=
  decodeAt .cmd 0x00000001#32 = .instr (.gray false) ∧ decodeAt .cmd 0x00000101#32 = .instr (.gray true) ∧
    decodeAt .cmd 0x00000002#32 = .instr .thresh ∧ decodeAt .cmd 0x00000003#32 = .instr .diffuse ∧
    decodeAt .cmd 0x00000004#32 = .instr .halftone ∧ decodeAt .cmd 0x00000005#32 = .instr .pack ∧
    decodeAt .cmd 0x00000006#32 = .instr .rotate ∧ decodeAt (.ctrl false) 0x00000005#32 = .instr (.start true) ∧
    decodeAt (.ctrl true) 0x00000001#32 = .instr (.startBusy false) ∧
    decodeAt (.ctrl true) 0x00000007#32 = .instr .srst ∧ decodeAt .status 0x0000000E#32 = .instr (.clear true true true)

/-! ### Reset -/

/-- Rule R40: the state after power-on reset and after soft reset, register by register, and system memory unchanged by the
reset (but for an aborted command's write range, rule R291). -/
def Obligations.ResetStateIsAsListed : Prop :=
  ∀ s : State,
    (∀ t, (t = State.reset ∨ t = deviceReset s) →
      readReg .id t = 0x47524D01#32 ∧ t.irqEn = false ∧ t.phase = .idle ∧ t.status.done = false ∧ t.status.err = false ∧
        t.status.ign = false ∧ t.status.errCode = .none ∧ readReg .status t = 0#32 ∧ readReg .ctrl t = 0#32 ∧
        readReg .cmd t = 0#32 ∧ readReg .width t = 0#32 ∧ readReg .height t = 0#32 ∧ readReg .srcAddr t = 0#32 ∧
        readReg .dstAddr t = 0#32 ∧ readReg .bright t = 85#32 ∧ readReg .progress t = 0#32 ∧ readReg .errAddr t = 0#32 ∧
        irq t = false) ∧
    (s.phase = .idle → ∀ a, (deviceReset s).mem.read a = s.mem.read a) ∧
    (∀ i, s.phase = .run → decodeCommand s.lat.cmd = .instr i → SameOutside (writeRange i s.lat) s (deviceReset s))

/-- The reset state meets the machine's invariant. -/
def Obligations.ResetMeetsTheInvariant : Prop := State.reset.inv = true

/-! ### Invariants that every step keeps -/

/-- From every state that meets the invariant (rules R30, R34, R231, R235, R260, R261, R263, R294), whatever agent acts, a
step gives a state that meets it. -/
def Obligations.EveryStepKeepsTheInvariant : Prop := ∀ s t : State, s.inv = true → step s = .next t → t.inv = true

/-- From every state whose memory is in its canonical form, a step keeps the form. -/
def Obligations.EveryStepKeepsMemoryCanonical : Prop :=
  ∀ s t : State, s.mem.wf = true → step s = .next t → t.mem.wf = true

/-- No step changes the platform's parameters (rule R7), nor does any step leave the schedule of events other than taken
up to its tail. (The schedule is the model's choice of which agent acts next: assumption 7, DESIGN CHOICE.) -/
def Obligations.EveryStepKeepsThePlatform : Prop :=
  ∀ s t : State, step s = .next t → t.platform = s.platform ∧ t.pending = s.pending.tail

/-- Rules R242, R34: phase RUN is left only by the engine's own end of its command, by a reset from the platform, or by a
host write to CTRL with SRST set. -/
def Obligations.OnlyTheseEventsLeaveRun : Prop :=
  ∀ s t : State, s.phase = .run → step s = .next t → t.phase = .idle →
    s.pending = [] ∨ (∃ rest, s.pending = .finish :: rest) ∨ (∃ rest, s.pending = .powerReset :: rest) ∨
      ∃ addr v rest, s.pending = .host (.store addr .word v) :: rest ∧
        route s.platform addr .word = .register 4 ∧ v &&& 0x00000002#32 = 0x00000002#32

/-- Rules R290, R264 and R278: while the device is IDLE, no step of the engine, of a register access or of a reset changes a
byte of memory. (The other events are the host's own stores, its cache invalidations and other instances' ends.) -/
def Obligations.IdleDeviceChangesNoMemory : Prop :=
  ∀ s t : State, s.phase = .idle → step s = .next t →
    (∀ addr w v rest, s.pending = .host (.store addr w v) :: rest → reachesWindow s.platform addr w = true) →
    (∀ r rest, s.pending ≠ .host (.invalidate r) :: rest) → (∀ c rest, s.pending ≠ .otherEnd c :: rest) →
    ∀ a, t.mem.read a = s.mem.read a

/-! ### The end of a command -/

/-- Rule R235: a running command whose bus accesses all complete ends with PROGRESS = N_op, ERR_CODE 0, DONE 1 and phase
IDLE, in one step, and irq rises if IRQ_EN is 1. Its frame: nothing else but memory in its write range changes. (Which bytes
HALFTONE reads, and so when its accesses all complete, is the model's reading: assumption 14, DEDUCED.) -/
def Obligations.CommandCompletes : Prop :=
  ∀ (i : Instr) (s : State), Request.isCommand i = true → Runs i s →
    ∃ t, exec i s = .next t ∧ Completed i s t ∧ SameOutside (writeRange i s.lat) s t ∧ (s.irqEn = true → irq t = true)

/-- Rule R265: a failing bus access ends the command: ERR 1, ERR_CODE 6, ERR_ADDR one of the failing addresses, phase IDLE,
PROGRESS within its bounds, memory outside the write range unchanged. (Which accesses can fail, and so be recorded, is the
model's reading: assumption 17, DEDUCED, for ROTATE's 4-byte accesses taken byte by byte, and assumption 14, DEDUCED, for the
bytes that HALFTONE reads.) -/
def Obligations.BusErrorEndsTheCommand : Prop :=
  ∀ (i : Instr) (s : State), Request.isCommand i = true → RunsIntoBusError i s →
    s.progress.toNat ≤ elements i s.lat →
    ∃ t, exec i s = .next t ∧ t.status.err = true ∧ t.status.errCode = .bus ∧ t.status.done = s.status.done ∧
      t.phase = .idle ∧ t.errAddr.toNat ∈ busFailures s.platform i s.lat ∧ s.progress.toNat ≤ t.progress.toNat ∧
      t.progress.toNat ≤ elements i s.lat ∧ KeepsAllButOutcome s t ∧ SameOutside (writeRange i s.lat) s t

/-- Rule R278: in phase IDLE no command runs, and the engine's turn changes nothing. -/
def Obligations.IdleEngineDoesNothing : Prop :=
  ∀ (i : Instr) (s : State), s.phase = .idle →
    (Request.isCommand i = true → exec i s = .next s) ∧ (s.pending = [] → step s = .next s)

/-- Rules R67 and R265: whatever a command does in whatever state, it changes no byte outside its write range. -/
def Obligations.CommandsWriteOnlyTheirRange : Prop :=
  ∀ (i : Instr) (s t : State), Request.isCommand i = true → exec i s = .next t → SameOutside (writeRange i s.lat) s t

/-- Rules R67 and R79: the bytes that a command leaves in its write range depend on no byte outside its read range. (When
HALFTONE's accesses all complete rests on assumption 14, DEDUCED.) -/
def Obligations.CommandsReadOnlyTheirRange : Prop :=
  ∀ (i : Instr) (s : State) (m : Memory), Request.isCommand i = true → Runs i s →
    (∀ a, (readRange i s.lat).has a = true → m.read a = s.mem.read a) →
    ∃ t u, exec i s = .next t ∧ exec i (s.setMem m) = .next u ∧
      ∀ a, (writeRange i s.lat).has a = true → u.mem.read a = t.mem.read a

/-- Decision D13 and rule R231: a command with W = 0 or H = 0 completes with PROGRESS 0 on every platform and touches no
memory. -/
def Obligations.EmptyCommandCompletes : Prop :=
  ∀ (i : Instr) (s : State), Request.isCommand i = true → s.phase = .run →
    (s.lat.width = 0#32 ∨ s.lat.height = 0#32) →
    ∃ t, exec i s = .next t ∧ t.mem = s.mem ∧ t.status.done = true ∧ t.status.errCode = .none ∧ t.progress = 0#32 ∧
      t.phase = .idle

/-- Rule R232: writes to the operand registers while a command runs change neither what it stores nor how it ends. -/
def Obligations.OperandWritesDoNotReachTheRunningCommand : Prop :=
  ∀ (i : Instr) (s : State) (p : Params), Request.isCommand i = true → s.phase = .run →
    ∃ t, exec i s = .next t ∧ exec i (s.setRegs p) = .next (t.setRegs p)

/-- Rules R95 and R92: BRIGHT, DST_ADDR and bit 8 of the command word cannot change the verdict on a reducer, what it stores
or how it ends; nor can BRIGHT and bit 8 for PACK and ROTATE, which do use DST_ADDR. -/
def Obligations.IgnoredOperandsChangeNothing : Prop :=
  ∀ (i : Instr) (p : Params) (bright dst : Word),
    (i = .thresh ∨ i = .diffuse ∨ i = .halftone ∨ ((i = .pack ∨ i = .rotate) ∧ dst = p.dst)) →
    decodeCommand p.cmd = .instr i →
    validate { p with bright := bright, dst := dst, cmd := p.cmd ^^^ 0x00000100#32 } = validate p ∧
      ∀ (s : State) (t : State), s.lat = p → exec i s = .next t →
        ∃ u, exec i { s with lat := { p with bright := bright, dst := dst, cmd := p.cmd ^^^ 0x00000100#32 } } = .next u ∧
          u.mem = t.mem ∧ u.status = t.status ∧ u.progress = t.progress ∧ u.errAddr = t.errAddr

/-! ### GRAY -/

/-- Rules R110 to R117: each destination byte is the gray value of its pixel's four source bytes. -/
def Obligations.GrayStoresTheGrayPixels : Prop :=
  ∀ (aaw : Bool) (s : State), Runs (.gray aaw) s →
    ∃ t, exec (.gray aaw) s = .next t ∧ Completed (.gray aaw) s t ∧ SameOutside (writeRange (.gray aaw) s.lat) s t ∧
      ∀ i, i < pixels s.lat →
        t.mem.read (s.lat.dst.toNat + i) =
          grayPixel (s.mem.read (s.lat.src.toNat + 4 * i)) (s.mem.read (s.lat.src.toNat + 4 * i + 1))
            (s.mem.read (s.lat.src.toNat + 4 * i + 2)) (s.mem.read (s.lat.src.toNat + 4 * i + 3)) s.lat.bright.toNat aaw

/-- Rules R115 and R118: at the neutral brightness the bias is nothing: the output is the stored luminance. -/
def Obligations.NeutralBrightnessStoresTheLuminance : Prop :=
  ∀ (r g b a : Byte) (aaw : Bool),
    grayPixel r g b a 128 aaw = store8 (luma (alphaStage r a aaw) (alphaStage g a aaw) (alphaStage b a aaw))

/-- Rules R118 and R119: transparent pixels are white or black by AAW at every brightness, opaque white and black stay so,
and AAW has no effect on an opaque pixel. -/
def Obligations.GrayExtremes : Prop :=
  ∀ (r g b : Byte) (bri : Nat), bri ≤ 255 →
    grayPixel r g b 0#8 bri true = 255#8 ∧ grayPixel r g b 0#8 bri false = 0#8 ∧
      (∀ aaw, grayPixel 255#8 255#8 255#8 255#8 bri aaw = 255#8 ∧ grayPixel 0#8 0#8 0#8 255#8 bri aaw = 0#8) ∧
      grayPixel r g b 255#8 bri true = grayPixel r g b 255#8 bri false

/-- Rule R12: `store8` clamps to [0, 255] and otherwise rounds to the nearest integer, ties to even. -/
def Obligations.StoreRoundsHalfToEven : Prop :=
  ∀ x : F64, x.representable →
    (x.value ≤ 0 → store8 x = 0#8) ∧ (255 ≤ x.value → store8 x = 255#8) ∧
      (0 < x.value → x.value < 255 →
        |((store8 x).toNat : ℚ) - x.value| ≤ 1 / 2 ∧
          (|((store8 x).toNat : ℚ) - x.value| = 1 / 2 → (store8 x).toNat % 2 = 0))

/-- Rule R10: each binary64 operation answers the value nearest to its exact result, ties to even; small integers convert
exactly, the absolute value is exact, and the comparisons compare the numbers. (The model has no largest exponent: what is
said of results past the binary64 range is assumption 26, DEDUCED, and no operand of the device comes near it.) -/
def Obligations.BinaryArithmeticRoundsToNearest : Prop :=
  (∀ a b : F64,
    (a.add b).isNearest (a.value + b.value) ∧ (a.sub b).isNearest (a.value - b.value) ∧
      (a.mul b).isNearest (a.value * b.value) ∧ (b.man ≠ 0 → (a.div b).isNearest (a.value / b.value)) ∧
      a.abs.value = |a.value| ∧ (a.lt b = true ↔ a.value < b.value) ∧ (a.le b = true ↔ a.value ≤ b.value) ∧
      (a.ge b = true ↔ b.value ≤ a.value)) ∧
    ∀ n : Int, n.natAbs < 2 ^ 53 → (F64.ofInt n).value = n

/-- Rule R11: a decimal literal is its nearest binary64 value, the three luminance weights have the listed values, and
the other constants are exact. -/
def Obligations.ConstantsAreAsListed : Prop :=
  (∀ (n : Int) (d : Nat), 0 < d → (F64.lit n d).isNearest ((n : ℚ) / d)) ∧
    weightR = { man := 0x1b333333333333, exp := -55 } ∧ weightG = { man := 0x16e48e8a71de6a, exp := -53 } ∧
    weightB = { man := 0x127525460aa64c, exp := -56 } ∧
    weightR.value = 2124999999999999944488848768742172978818416595458984375 / 10 ^ 55 ∧
    weightG.value = 7154000000000000358824081558850593864917755126953125 / 10 ^ 52 ∧
    weightB.value = 72099999999999997424282582869636826217174530029296875 / 10 ^ 54 ∧
    (F64.ofInt 1).value = 1 ∧ (F64.ofInt 2).value = 2 ∧ (F64.ofInt 4).value = 4 ∧ (F64.ofInt 16).value = 16 ∧
    (F64.ofInt 255).value = 255 ∧ (F64.ofInt 128).value = 128 ∧ halftoneCenter.value = 3 / 2

/-! ### The reducers -/

/-- Rules R140 to R142: each byte becomes 255 when it exceeds 128 and 0 otherwise. -/
def Obligations.ThreshBinarizesEachByte : Prop :=
  ∀ s : State, Runs .thresh s →
    ∃ t, exec .thresh s = .next t ∧ Completed .thresh s t ∧ SameOutside (writeRange .thresh s.lat) s t ∧
      ∀ i, i < pixels s.lat →
        t.mem.read (s.lat.src.toNat + i) = if 128 < (s.mem.read (s.lat.src.toNat + i)).toNat then 255#8 else 0#8

/-- Rules R141, R156 and R158: THRESH and DIFFUSE leave a buffer that is already black and white as it is. -/
def Obligations.ThreshAndDiffuseKeepBinaryBuffers : Prop :=
  ∀ (i : Instr) (s : State), (i = .thresh ∨ i = .diffuse) → Runs i s →
    BinaryBuffer s.mem s.lat.src.toNat (pixels s.lat) →
    ∃ t, exec i s = .next t ∧ ∀ a, t.mem.read a = s.mem.read a

/-- Rule R152: the quantized value and the error of a byte, and the error's range. -/
def Obligations.QuantizationError : Prop :=
  ∀ v : Byte,
    quantize v = (if 128 < v.toNat then 255#8 else 0#8) ∧ quantError v = (v.toNat : Int) - (quantize v).toNat ∧
      -126 ≤ quantError v ∧ quantError v ≤ 128 ∧ (v.toNat ≤ 128 → quantError v = v.toNat) ∧
      (129 ≤ v.toNat → quantError v = (v.toNat : Int) - 255 ∧ quantError v ≤ 0)

/-- Rule R154: the binary64 store of a diffused contribution is the integer formula over the rationals. -/
def Obligations.SpreadIsTheIntegerFormula : Prop :=
  ∀ (old : Byte) (e w : Int), -126 ≤ e → e ≤ 128 → (w = 1 ∨ w = 3 ∨ w = 5 ∨ w = 7) →
    ((spreadByte old e w).toNat : Int) = spreadInt old.toNat e w

/-- Rules R150 to R155: DIFFUSE on memory is Floyd-Steinberg error diffusion in raster order on an array of integers. -/
def Obligations.DiffuseMatchesTheIntegerReference : Prop :=
  ∀ s : State, Runs .diffuse s →
    ∃ t, exec .diffuse s = .next t ∧ Completed .diffuse s t ∧ SameOutside (writeRange .diffuse s.lat) s t ∧
      ∀ i, i < pixels s.lat →
        ((t.mem.read (s.lat.src.toNat + i)).toNat : Int) =
          diffuseInt s.lat.width.toNat s.lat.height.toNat (fun k => ((s.mem.read (s.lat.src.toNat + k)).toNat : Int)) i

/-- Rule R156: the buffer that DIFFUSE leaves is binary. -/
def Obligations.DiffuseOutputIsBinary : Prop :=
  ∀ s : State, Runs .diffuse s →
    ∃ t, exec .diffuse s = .next t ∧ BinaryBuffer t.mem s.lat.src.toNat (pixels s.lat)

/-- Rule R177: the binary64 decision of HALFTONE is the exact level table, for every block sum and offset, with the exact
values at the two boundaries. -/
def Obligations.HalftoneMatchesTheLevelTable : Prop :=
  (∀ ssum xx yy, ssum ≤ 4080 → xx < 4 → yy < 4 → halftoneWhite (dotRadius ssum) xx yy = !levelBlack ssum xx yy) ∧
    (∀ ssum, ssum ≤ 4080 → ((3 / 2 < (dotRadius ssum).value ↔ ssum < 2550) ∧ (1 / 2 < (dotRadius ssum).value ↔ ssum < 3570))) ∧
    (((F64.ofInt 2550).div (F64.ofInt 16)).div (F64.ofInt 255)).value = 5 / 8 ∧ (dotRadius 2550).value = 3 / 2 ∧
    (((F64.ofInt 3570).div (F64.ofInt 16)).div (F64.ofInt 255)).value = 7 / 8 ∧ (dotRadius 3570).value = 1 / 2

/-- Rules R170 to R177: HALFTONE leaves at each pixel what the level table gives for its block of the input, and white
outside the complete blocks. (That its accesses complete is asked only for the bytes of complete blocks that it reads and for
the buffer that it writes: assumption 14, DEDUCED.) -/
def Obligations.HalftoneDrawsTheDots : Prop :=
  ∀ s : State, Runs .halftone s →
    ∃ t, exec .halftone s = .next t ∧ Completed .halftone s t ∧ SameOutside (writeRange .halftone s.lat) s t ∧
      ∀ x y, x < s.lat.width.toNat → y < s.lat.height.toNat →
        (t.mem.read (byteAddr s.lat.src.toNat s.lat.width.toNat x y)).toNat =
          halftonePixel s.lat.width.toNat s.lat.height.toNat
            (fun x y => (s.mem.read (byteAddr s.lat.src.toNat s.lat.width.toNat x y)).toNat) x y

/-! ### PACK -/

/-- Rules R190 to R194: bit `7-d` of output byte `k` is 0 exactly when pixel `8k+d` exists and is 0. -/
def Obligations.PackBits : Prop :=
  ∀ s : State, Runs .pack s →
    ∃ t, exec .pack s = .next t ∧ Completed .pack s t ∧ SameOutside (writeRange .pack s.lat) s t ∧
      ∀ k d, k < packedBytes s.lat → d < 8 →
        (t.mem.read (s.lat.dst.toNat + k)).getLsbD (7 - d) =
          !(decide (8 * k + d < pixels s.lat) && s.mem.read (s.lat.src.toNat + (8 * k + d)) == 0#8)

/-- Rule R198: unpacking what PACK wrote rebuilds a binary input, pixel by pixel, for every length. -/
def Obligations.UnpackRebuildsTheInput : Prop :=
  ∀ s : State, Runs .pack s → BinaryBuffer s.mem s.lat.src.toNat (pixels s.lat) →
    ∃ t, exec .pack s = .next t ∧
      ∀ i, i < pixels s.lat → unpackPixel t.mem s.lat.dst.toNat i = s.mem.read (s.lat.src.toNat + i)

/-! ### ROTATE -/

/-- Rules R210, R211 and R213: each output pixel is, byte for byte, the input pixel in column `y'` and row `H-1-x'`. -/
def Obligations.RotateMovesPixelsWhole : Prop :=
  ∀ s : State, Runs .rotate s →
    ∃ t, exec .rotate s = .next t ∧ Completed .rotate s t ∧ SameOutside (writeRange .rotate s.lat) s t ∧
      ∀ x y c, x < s.lat.height.toNat → y < s.lat.width.toNat → c < 4 →
        t.mem.read (s.lat.dst.toNat + 4 * (y * s.lat.height.toNat + x) + c) =
          s.mem.read
            (s.lat.src.toNat + 4 * ((s.lat.height.toNat - 1 - x) * s.lat.width.toNat + y) + c)

/-- Rules R211 and R214: the index mapping stays inside the image, two rotations turn the pixel order round, and four
are the identity. -/
def Obligations.FourRotationsAreTheIdentity : Prop :=
  ∀ w h j : Nat, j < w * h →
    rotateIndex w h j < w * h ∧ rotateIndex w h (rotateIndex h w j) = w * h - 1 - j ∧
      rotateIndex w h (rotateIndex h w (rotateIndex w h (rotateIndex h w j))) = j

/-! ### START, SRST and the STATUS clear -/

/-- Rules R261 and R262: START accepts exactly the well-formed requests. -/
def Obligations.ValidateAcceptsExactlyWellFormed : Prop :=
  ∀ (i : Instr) (p : Params), validate p = .accept i ↔ decodeCommand p.cmd = .instr i ∧ Request.wf i p = true

/-- Rule R261 (and R263 for the address): the first failing check, in the spec's order, decides the code and the recorded
address, and a request that fails none is accepted. -/
def Obligations.ValidateReportsTheFirstFailure : Prop :=
  ∀ (i : Instr) (p : Params),
    ((∃ why, decodeCommand p.cmd = .reject why) → validate p = .reject .illegal 0#32) ∧
    (decodeCommand p.cmd = .instr i →
      ((Request.dimsOk p && Request.brightOk i p) = false → validate p = .reject .param 0#32) ∧
      ((Request.dimsOk p && Request.brightOk i p) = true → Request.aligned i p = false →
        validate p = .reject .align (if p.src.toNat % 4 ≠ 0 then p.src else p.dst)) ∧
      ((Request.dimsOk p && Request.brightOk i p && Request.aligned i p) = true → Request.inRange i p = false →
        validate p =
          .reject .range
            (if 0 < Request.sourceBytes i p ∧ 2 ^ 32 < p.src.toNat + Request.sourceBytes i p then p.src else p.dst)) ∧
      ((Request.dimsOk p && Request.brightOk i p && Request.aligned i p && Request.inRange i p) = true →
        Request.disjoint i p = false → validate p = .reject .overlap p.dst) ∧
      ((Request.dimsOk p && Request.brightOk i p && Request.aligned i p && Request.inRange i p && Request.disjoint i p) =
        true → validate p = .accept i))

/-- Rule R231, accepted: the operands are latched, the outcome of the last command is cleared and the engine runs; no
memory is touched, IGN is kept, and the command's ranges are lent (rule R294). Of the host's record only the uncleaned bytes may
also change: those in the write range are dropped, and no clause speaks of them (assumption 9, DESIGN CHOICE). (That a START
taken in IDLE before the host has seen the last command's end, which rules R295 and R305 speak of, is an ordinary START, as rules
R231, R267 and R278 say, is the model's choice between them: assumption 15, DEDUCED.) -/
def Obligations.StartEntersRun : Prop :=
  ∀ (irqEn : Bool) (s : State) (i : Instr), s.phase = .idle → validate s.regs = .accept i →
    startHazard s (claimOf i s.regs) = none →
    ∃ t, exec (.start irqEn) s = .next t ∧ t.phase = .run ∧ t.irqEn = irqEn ∧ t.lat = s.regs ∧ t.regs = s.regs ∧
      t.status.done = false ∧ t.status.err = false ∧ t.status.errCode = .none ∧ t.status.ign = s.status.ign ∧
      t.errAddr = 0#32 ∧ t.progress = 0#32 ∧ t.mem = s.mem ∧ t.platform = s.platform ∧ t.others = s.others ∧
      t.pending = s.pending ∧ t.freeCount = s.freeCount ∧ t.host.borrows = claimOf i s.regs :: s.host.borrows ∧
      t.host.stale = s.host.stale ∧ t.host.lastRead = s.host.lastRead

/-- Rules R231 and R264: a rejected START touches no memory and changes only STATUS, ERR_ADDR, PROGRESS, IRQ_EN and the latches.
(That it stores IRQ_EN is rule R231's pseudocode, and rule R264 does not list it: assumption 16.) -/
def Obligations.RejectedStartIsPrecise : Prop :=
  ∀ (irqEn : Bool) (s : State) (code : ErrCode) (addr : Word), s.phase = .idle → validate s.regs = .reject code addr →
    ∃ t, exec (.start irqEn) s = .next t ∧ t.phase = .idle ∧ t.status.err = true ∧ t.status.errCode = code ∧
      t.errAddr = addr ∧ t.progress = 0#32 ∧ t.status.done = false ∧ t.status.ign = s.status.ign ∧ t.lat = s.regs ∧
      t.irqEn = irqEn ∧ t.regs = s.regs ∧ t.mem = s.mem ∧ t.platform = s.platform ∧ t.host = s.host ∧
      t.others = s.others ∧ t.pending = s.pending ∧ t.freeCount = s.freeCount

/-- Rule R236: a START while BUSY stores IRQ_EN and sets IGN, and changes nothing else. -/
def Obligations.StartWhileBusyIsDropped : Prop :=
  ∀ (irqEn : Bool) (s : State), s.phase = .run →
    exec (.startBusy irqEn) s = .next { s with irqEn := irqEn, status := { s.status with ign := true } } ∧
      exec (.start irqEn) s = exec (.startBusy irqEn) s

/-- Rules R237 and R291: a soft reset, in either phase, gives every register its reset value and leaves every byte outside
an aborted command's write range; while IDLE it changes no memory. -/
def Obligations.SoftResetAborts : Prop :=
  ∀ s : State,
    ∃ t, exec .srst s = .next t ∧ t.phase = .idle ∧ t.irqEn = false ∧ t.status = Status.reset ∧ t.regs = Params.reset ∧
      t.progress = 0#32 ∧ t.errAddr = 0#32 ∧ irq t = false ∧ t.platform = s.platform ∧ t.others = s.others ∧
      t.pending = s.pending ∧ (s.phase = .idle → ∀ a, t.mem.read a = s.mem.read a) ∧
      ∀ i, s.phase = .run → decodeCommand s.lat.cmd = .instr i → SameOutside (writeRange i s.lat) s t

/-- Rule R238: a STATUS write clears each of DONE, ERR and IGN whose written bit is 1, and changes nothing else. -/
def Obligations.StatusClearClearsWrittenBits : Prop :=
  ∀ (done err ign : Bool) (s : State),
    exec (.clear done err ign) s =
      .next
        { s with
          status :=
            { done := if done then false else s.status.done
              err := if err then false else s.status.err
              ign := if ign then false else s.status.ign
              errCode := s.status.errCode } }

/-- Rules R35, R270 and R271: irq is the level IRQ_EN and (DONE or ERR); it is lowered by clearing DONE and ERR, by clearing
IRQ_EN and by START's clearing of DONE and ERR, and IGN does not raise it. -/
def Obligations.IrqIsTheLevel : Prop :=
  ∀ s : State,
    irq s = (s.irqEn && (s.status.done || s.status.err)) ∧ irq s.setIgn = irq s ∧
      (∀ ign, irq (s.clearFlags true true ign) = false) ∧ irq (s.setIrqEn false) = false ∧ irq s.clearOutcome = false ∧
      irqLevel s s.platform.irqLine = irq s

/-! ### Host hazards -/

/-- Rules R300 to R303 and R305: an accepted START whose command breaks a duty is HostHazard, and only then does a START
taken in IDLE fault. (That a START taken before the host has seen the last command's end, which rules R295 and R305 speak of, is
an ordinary START, as rules R231, R267 and R278 say, is the model's choice between them: assumption 15, DEDUCED.) -/
def Obligations.StartFaultsExactlyOnAHazard : Prop :=
  ∀ (irqEn : Bool) (s : State) (why : Hazard), s.phase = .idle →
    (exec (.start irqEn) s = .fault (.hostHazard why) ↔
      ∃ i, validate s.regs = .accept i ∧ startHazard s (claimOf i s.regs) = some why)

/-- Rules R300 to R303: starting a command breaks a duty exactly when some byte of its ranges is not allocated or not ordinary
memory, some byte of its read range is written and not cleaned, or some byte is shared with another instance's command and
one of the two writes it. -/
def Obligations.StartHazardIsABrokenDuty : Prop :=
  ∀ (s : State) (c : Claim),
    startHazard s c = none ↔
      ∀ a,
        ((c.reads.has a = true ∨ c.writes.has a = true) →
          covered s.platform.unowned a = false ∧ covered s.platform.special a = false) ∧
        (c.reads.has a = true → covered s.host.dirty a = false) ∧
        ∀ d ∈ s.others,
          ¬(c.writes.has a = true ∧ (d.reads.has a = true ∨ d.writes.has a = true)) ∧
            ¬(d.writes.has a = true ∧ c.reads.has a = true)

/-- Rules R276 and R303: another instance's start is HostHazard when its command and one that runs, on this device or on a
third instance, share a byte that either writes; otherwise it changes nothing of this device or of memory. (That another
instance appears as the ranges of its commands is the model's choice: assumption 12, DESIGN CHOICE.) -/
def Obligations.OtherInstancesMayNotShareWrittenBytes : Prop :=
  ∀ (s : State) (c : Claim) (rest : List Event), s.pending = .otherStart c :: rest →
    let shares : Prop :=
      ∃ d, ((∃ i, s.phase = .run ∧ decodeCommand s.lat.cmd = .instr i ∧ d = claimOf i s.lat) ∨ d ∈ s.others) ∧
        ∃ a, (c.writes.has a = true ∧ (d.reads.has a = true ∨ d.writes.has a = true)) ∨
          (d.writes.has a = true ∧ c.reads.has a = true)
    (shares → step s = .fault (.hostHazard .sharing)) ∧
      (¬shares → step s = .next { s with others := c :: s.others, pending := rest })

/-- Rule R302: on a platform without coherence, a completed command's written bytes are not to be read by the host before it
invalidates its caches for them. (It holds in every later state whose record of bytes to invalidate is still the one that the
end left, so also for a byte that the host itself has rewritten since: rule R302 does not say whether such a byte is still an
output, and that it is one is the model's choice: assumption 9, DESIGN CHOICE.) -/
def Obligations.ReadWithoutInvalidateIsAHazard : Prop :=
  ∀ (i : Instr) (s : State), Request.isCommand i = true → Runs i s → s.platform.coherent = false →
    ∃ t, exec i s = .next t ∧
      ∀ (addr : Word) (w : Width) (u : State) (rest : List Event), u.host.stale = t.host.stale →
        u.platform = t.platform → reachesWindow u.platform addr w = false →
        (∃ a ∈ accessBytes addr w, (writeRange i s.lat).has a = true ∧ u.lentForWriting a = false) →
        u.pending = .host (.load addr w) :: rest → step u = .fault (.hostHazard .coherence)

/-- Rule R69: a host access that touches the register window but is not one aligned 32-bit access is HostHazard. -/
def Obligations.BadRegisterAccessIsAHazard : Prop :=
  ∀ (s : State) (addr : Word) (w : Width) (v : Word) (rest : List Event), s.platform.mmioBase.toNat % 256 = 0 →
    reachesWindow s.platform addr w = true → (w ≠ .word ∨ addr.toNat % 4 ≠ 0) →
    (s.pending = .host (.store addr w v) :: rest ∨ s.pending = .host (.load addr w) :: rest) →
    step s = .fault (.hostHazard .registerAccess)

/-- Rules R78 and R294: while a command runs, a host write to a byte of its read or write ranges is HostHazard. -/
def Obligations.HostWriteToABusyBufferIsAHazard : Prop :=
  ∀ (s : State) (i : Instr) (addr : Word) (w : Width) (v : Word) (rest : List Event), s.inv = true → s.phase = .run →
    validate s.lat = .accept i → s.pending = .host (.store addr w v) :: rest →
    reachesWindow s.platform addr w = false →
    (∃ a ∈ accessBytes addr w, (readRange i s.lat).has a = true ∨ (writeRange i s.lat).has a = true) →
    step s = .fault (.hostHazard .ownership)

/-! ### The register window and the step -/

/-- Rules R20, R24 to R29, R83 and R230: a host write to an operand register stores all 32 bits there, leaves the others and
the latches, and a read returns it. -/
def Obligations.OperandRegistersHoldWhatIsWritten : Prop :=
  ∀ (s : State) (r : Reg) (v : Word) (rest : List Event), s.platform.mmioBase.toNat % 256 = 0 →
    r ∈ [Reg.cmd, Reg.width, Reg.height, Reg.bright, Reg.srcAddr, Reg.dstAddr] → s.pending = wr s.platform r v :: rest →
    ∃ t, step s = .next t ∧ readReg r t = v ∧ (∀ q, q ≠ r → readReg q t = readReg q s) ∧ t.lat = s.lat ∧
      t.phase = s.phase ∧ t.mem = s.mem ∧ t.pending = rest

/-- Rules R21, R30 to R32: the read-only registers and the reserved offsets ignore writes, ID reads its constant, and
reserved offsets read 0. -/
def Obligations.ReadOnlyAndReservedOffsetsIgnoreWrites : Prop :=
  ∀ (s : State) (offset : Nat) (v : Word), (offset = 0x00 ∨ offset = 0x24 ∨ offset = 0x28 ∨ 0x2C ≤ offset) →
    writeOffset offset v s = .next s ∧ readOffset 0x00 s = 0x47524D01#32 ∧
      (0x2C ≤ offset → readOffset offset s = 0#32)

/-- A host read of a register returns its value and changes nothing of the device (rules R72, R239). -/
def Obligations.RegisterReadsHaveNoEffect : Prop :=
  ∀ (s : State) (r : Reg) (rest : List Event), s.platform.mmioBase.toNat % 256 = 0 → s.pending = rd s.platform r :: rest →
    ∃ t, step s = .next t ∧ t.host.lastRead = some (readReg r s) ∧ (∀ q, readReg q t = readReg q s) ∧ t.lat = s.lat ∧
      t.phase = s.phase ∧ t.irqEn = s.irqEn ∧ t.status = s.status ∧ t.mem = s.mem

/-- A step runs the latched command: when the engine's turn comes in phase RUN and the latched word decodes to `i`, the
step is `exec i`, on the state with that turn taken off the schedule (rules R232, R234). -/
def Obligations.StepRunsTheLatchedCommand : Prop :=
  ∀ (s : State) (i : Instr), s.phase = .run → decodeCommand s.lat.cmd = .instr i →
    (s.pending = [] → step s = exec i s) ∧
      ∀ rest, s.pending = .finish :: rest → step s = exec i (s.setPending rest)

/-- A step runs the control operation that the host writes: when the next event is a 32-bit write to CTRL or STATUS and
the value decodes to `i` there, the step is `exec i` on the state with the event taken off the schedule; a CTRL write with
neither START nor SRST only stores IRQ_EN (rules R22, R231, R236 to R238). The platform's reset input runs the same operation
as SRST (rule R290; in phase RUN that is the model's choice, assumption 19). -/
def Obligations.StepRunsTheWrittenControlOperation : Prop :=
  ∀ (s : State) (v : Word) (rest : List Event), s.platform.mmioBase.toNat % 256 = 0 →
    (s.pending = wr s.platform .ctrl v :: rest →
      (∀ i, decodeCtrl s.busy v = .instr i → step s = exec i (s.setPending rest)) ∧
        (v &&& 0x00000003#32 = 0#32 → step s = .next ((s.setPending rest).setIrqEn (v.getLsbD 2)))) ∧
      (s.pending = wr s.platform .status v :: rest →
        ∀ i, decodeStatus v = .instr i → step s = exec i (s.setPending rest)) ∧
      (s.pending = .powerReset :: rest → step s = exec .srst (s.setPending rest))

/-- Rule R30: while a command runs, the engine's work never lowers PROGRESS and never takes it past N_op, and changes
nothing else of the device, nor memory. (Rule R78 leaves the write range unspecified while BUSY and rule R30 says nothing of
memory: that the work before the end stores nothing, because a command's writes take effect whole in the step that ends it, is
the model's choice: assumption 13, DEDUCED.) -/
def Obligations.ProgressStaysInItsBounds : Prop :=
  ∀ (s : State) (i : Instr) (rest : List Event), s.phase = .run → validate s.lat = .accept i →
    s.progress.toNat ≤ elements i s.lat → s.pending = .work :: rest →
    ∃ t, step s = .next t ∧ s.progress.toNat ≤ t.progress.toNat ∧ t.progress.toNat ≤ elements i s.lat ∧
      t.phase = .run ∧ t.status = s.status ∧ t.irqEn = s.irqEn ∧ t.regs = s.regs ∧ t.lat = s.lat ∧
      t.errAddr = s.errAddr ∧ t.mem = s.mem ∧ t.host = s.host

/-- Rule R242: from every state that meets the invariant, a command whose engine gets its turn, as the next event or because
no event is left, leaves phase RUN, completed or with an error. (Which agent acts next is the model's schedule: assumption 7,
DESIGN CHOICE.) -/
def Obligations.EveryCommandEnds : Prop :=
  ∀ s : State, s.inv = true → s.phase = .run → (s.pending = [] ∨ ∃ rest, s.pending = .finish :: rest) →
    ∃ t, step s = .next t ∧ t.phase = .idle ∧ (t.status.done = true ∨ t.status.err = true)

/-- Rules R62, R72, R78 and R295: a host read of 1, 2 or 4 bytes of memory outside the register window, the lent write ranges
and the outputs not yet invalidated returns memory's bytes, the lowest address least significant and the rest zero, and
changes nothing of the device or of memory. (For an access past the top of the 32-bit space the addresses wrap: assumption 11,
DESIGN CHOICE.) -/
def Obligations.HostReadsMemory : Prop :=
  ∀ (s : State) (addr : Word) (w : Width) (rest : List Event), reachesWindow s.platform addr w = false →
    s.pending = .host (.load addr w) :: rest →
    (∀ a ∈ accessBytes addr w, s.lentForWriting a = false ∧ covered s.host.stale a = false) →
    ∃ t v, step s = .next t ∧ t.host.lastRead = some v ∧
      (∀ k, k < 4 → byteOfWord v k = if k < w.bytes then s.mem.read (addr + BitVec.ofNat 32 k).toNat else 0#8) ∧
      t.mem = s.mem ∧ t.regs = s.regs ∧ t.lat = s.lat ∧ t.status = s.status ∧ t.phase = s.phase ∧ t.irqEn = s.irqEn ∧
      t.progress = s.progress ∧ t.errAddr = s.errAddr ∧ t.host.borrows = s.host.borrows ∧ t.host.dirty = s.host.dirty ∧
      t.host.stale = s.host.stale ∧ t.others = s.others ∧ t.pending = rest

/-- Rules R62 and R78: a host write outside the register window and outside the lent ranges stores the low bytes of its value,
least significant first, leaves every other byte, and changes nothing of the device. (For an access past the top of the 32-bit
space the addresses wrap: assumption 11, DESIGN CHOICE, the model's choice.) -/
def Obligations.HostStoresReachMemory : Prop :=
  ∀ (s : State) (addr : Word) (w : Width) (v : Word) (rest : List Event), reachesWindow s.platform addr w = false →
    s.pending = .host (.store addr w v) :: rest → (∀ a ∈ accessBytes addr w, s.lent a = false) →
    ∃ t, step s = .next t ∧
      (∀ k, k < w.bytes → t.mem.read (addr + BitVec.ofNat 32 k).toNat = byteOfWord v k) ∧
      (∀ a, a ∉ accessBytes addr w → t.mem.read a = s.mem.read a) ∧ t.regs = s.regs ∧ t.lat = s.lat ∧
      t.status = s.status ∧ t.phase = s.phase ∧ t.irqEn = s.irqEn ∧ t.progress = s.progress ∧ t.errAddr = s.errAddr
end

