-- ==== Sys2Proof/Laws/Memory.lean ====
section
/-! SUPPORT. System memory: what a read sees after a write, and that every operation keeps the canonical form. -/

namespace Sys2Proof.Machine

/-! ### Reading after writing -/

@[simp] theorem Memory.read_nil (a : Nat) : Memory.read [] a = Config.unwritten := rfl

theorem Memory.read_put (m : Memory) (x : Nat) (v : Byte) (a : Nat) :
    (m.put x v).read a = if a = x then v else m.read a := by
  induction m with
  | nil => simp [Memory.put, Memory.read]
  | cons c rest ih =>
    obtain ⟨y, b⟩ := c
    by_cases h1 : x < y
    · simp [Memory.put, h1, Memory.read]
    · by_cases h2 : x = y
      · subst h2
        by_cases h3 : a = x <;> simp [Memory.put, Memory.read, h3]
      · by_cases h3 : a = y
        · have : a ≠ x := fun h => h2 (h ▸ h3)
          simp [Memory.put, h1, h2, Memory.read, h3, Ne.symm h2]
        · simp [Memory.put, h1, h2, Memory.read, h3, ih]

theorem Memory.read_remove (m : Memory) (x a : Nat) :
    Memory.read (m.filter (fun c => decide (c.1 ≠ x))) a = if a = x then Config.unwritten else m.read a := by
  induction m with
  | nil => simp
  | cons c rest ih =>
    obtain ⟨y, b⟩ := c
    by_cases h1 : y = x
    · subst h1
      by_cases h2 : a = y <;> simp_all [Memory.read]
    · by_cases h2 : a = y
      · subst h2
        simp [h1, Memory.read]
      · by_cases h3 : a = x <;> simp_all [Memory.read]

/-- A read after a write: the written byte at its address, the old byte everywhere else. -/
theorem Memory.read_write (m : Memory) (x : Nat) (v : Byte) (a : Nat) :
    (m.write x v).read a = if a = x then v else m.read a := by
  unfold Memory.write
  split
  · rename_i h
    rw [Memory.read_remove, h]
  · exact Memory.read_put m x v a

@[simp] theorem Memory.read_write_same (m : Memory) (x : Nat) (v : Byte) : (m.write x v).read x = v := by
  simp [Memory.read_write]

theorem Memory.read_write_other (m : Memory) {x a : Nat} (v : Byte) (h : a ≠ x) : (m.write x v).read a = m.read a := by
  simp [Memory.read_write, h]

/-- The byte of a word that lies at `a` when the word is stored at `x`. -/
theorem Memory.read_write32 (m : Memory) (x : Nat) (v : Word) (a : Nat) :
    (m.write32 x v).read a =
      if x ≤ a ∧ a < x + 4 then byteOfWord v (a - x) else m.read a := by
  unfold Memory.write32
  simp only [Memory.read_write]
  by_cases h3 : a = x + 3
  · subst h3; simp
  by_cases h2 : a = x + 2
  · subst h2; simp
  by_cases h1 : a = x + 1
  · subst h1; simp
  by_cases h0 : a = x
  · subst h0; simp
  · have : ¬(x ≤ a ∧ a < x + 4) := by omega
    simp [h0, h1, h2, h3, this]

/-- The bytes of a word read from memory are memory's bytes (rule R62). -/
theorem byteOfWord_read32 (m : Memory) (x k : Nat) (hk : k < 4) : byteOfWord (m.read32 x) k = m.read (x + k) := by
  have : k = 0 ∨ k = 1 ∨ k = 2 ∨ k = 3 := by omega
  unfold byteOfWord Memory.read32 wordOfBytes
  ext i hi
  rcases this with rfl | rfl | rfl | rfl <;> simp [BitVec.getElem_extractLsb'] <;> grind

/-! ### The canonical form -/

theorem Memory.wf_cons (a : Nat) (b : Byte) (rest : Memory) :
    Memory.wf ((a, b) :: rest) = true ↔
      b ≠ Config.unwritten ∧ (∀ c ∈ rest, a < c.1) ∧ Memory.wf rest = true := by
  simp [Memory.wf, and_assoc]

theorem Memory.put_mem (m : Memory) (x : Nat) (v : Byte) (c : Host.Cell) (h : c ∈ m.put x v) :
    c = (x, v) ∨ c ∈ m := by
  induction m with
  | nil => simpa [Memory.put] using h
  | cons d rest ih =>
    obtain ⟨a, b⟩ := d
    simp only [Memory.put] at h
    split at h
    · simpa using h
    · split at h <;> simp only [List.mem_cons] at h ⊢ <;> rcases h with h | h
      · exact .inl h
      · exact .inr (.inr h)
      · exact .inr (.inl h)
      · rcases ih h with h | h
        · exact .inl h
        · exact .inr (.inr h)

theorem Memory.put_wf (m : Memory) (x : Nat) (v : Byte) (hv : v ≠ Config.unwritten) (h : m.wf = true) :
    (m.put x v).wf = true := by
  induction m with
  | nil => simp [Memory.put, Memory.wf, hv]
  | cons d rest ih =>
    obtain ⟨a, b⟩ := d
    obtain ⟨hb, hlt, hrest⟩ := (Memory.wf_cons a b rest).1 h
    simp only [Memory.put]
    split
    · rename_i hxa
      refine (Memory.wf_cons _ _ _).2 ⟨hv, ?_, h⟩
      intro c hc
      rcases List.mem_cons.1 hc with rfl | hc
      · exact hxa
      · exact Nat.lt_trans hxa (hlt c hc)
    · split
      · rename_i hxa
        subst hxa
        exact (Memory.wf_cons _ _ _).2 ⟨hv, hlt, hrest⟩
      · refine (Memory.wf_cons _ _ _).2 ⟨hb, ?_, ih hrest⟩
        intro c hc
        rcases Memory.put_mem rest x v c hc with rfl | hc
        · dsimp only; omega
        · exact hlt c hc

theorem Memory.filter_wf (m : Memory) (f : Host.Cell → Bool) (h : m.wf = true) : Memory.wf (m.filter f) = true := by
  induction m with
  | nil => rfl
  | cons d rest ih =>
    obtain ⟨a, b⟩ := d
    obtain ⟨hb, hlt, hrest⟩ := (Memory.wf_cons a b rest).1 h
    by_cases hf : f (a, b) = true
    · rw [List.filter_cons_of_pos hf]
      exact (Memory.wf_cons _ _ _).2 ⟨hb, fun c hc => hlt c (List.mem_filter.1 hc).1, ih hrest⟩
    · rw [List.filter_cons_of_neg hf]
      exact ih hrest

/-- A write keeps the canonical form. -/
theorem Memory.write_wf (m : Memory) (x : Nat) (v : Byte) (h : m.wf = true) : (m.write x v).wf = true := by
  unfold Memory.write
  split
  · exact Memory.filter_wf m _ h
  · rename_i hv
    exact Memory.put_wf m x v hv h

theorem Memory.write32_wf (m : Memory) (x : Nat) (v : Word) (h : m.wf = true) : (m.write32 x v).wf = true :=
  Memory.write_wf _ _ _ (Memory.write_wf _ _ _ (Memory.write_wf _ _ _ (Memory.write_wf _ _ _ h)))

/-! ### Loops over memory -/

/-- A property of memory that every turn of a loop keeps is kept by the loop. -/
theorem foldl_keeps {α : Type} (P : Memory → Prop) (f : Memory → α → Memory) (l : List α)
    (hf : ∀ m x, x ∈ l → P m → P (f m x)) (m : Memory) (h : P m) : P (l.foldl f m) := by
  induction l generalizing m with
  | nil => exact h
  | cons x rest ih =>
    exact ih (fun m y hy => hf m y (List.mem_cons_of_mem _ hy)) _ (hf m x List.mem_cons_self h)

/-- A byte that no turn of a loop changes is unchanged by the loop. -/
theorem read_foldl_other {α : Type} (f : Memory → α → Memory) (l : List α) (a : Nat)
    (hf : ∀ m x, x ∈ l → (f m x).read a = m.read a) (m : Memory) : (l.foldl f m).read a = m.read a :=
  foldl_keeps (fun m' => m'.read a = m.read a) f l (fun m' x hx h => (hf m' x hx).trans h) m rfl

/-- A loop that writes one byte a turn, at distinct addresses: the byte written in turn `i` is read after the loop as the
loop's memory was when turn `i` computed it. -/
theorem read_foldl_write (addr : Nat → Nat) (val : Memory → Nat → Byte) (n : Nat)
    (hinj : ∀ i j, i < n → j < n → addr i = addr j → i = j) (m : Memory) (i : Nat) (hi : i < n) :
    ((List.range n).foldl (fun m i => m.write (addr i) (val m i)) m).read (addr i) =
      val ((List.range i).foldl (fun m i => m.write (addr i) (val m i)) m) i := by
  induction n with
  | zero => omega
  | succ n ih =>
    rw [List.range_succ, List.foldl_append]
    simp only [List.foldl_cons, List.foldl_nil]
    by_cases hin : i = n
    · subst hin; simp
    · have hne : addr i ≠ addr n := fun h => hin (hinj i n hi (by omega) h)
      rw [Memory.read_write_other _ _ hne]
      exact ih (fun i j hi hj => hinj i j (by omega) (by omega)) (by omega)

theorem Memory.overwrite_wf (m : Memory) (addrs : List Nat) (f : Nat → Byte) (h : m.wf = true) :
    (m.overwrite addrs f).wf = true :=
  foldl_keeps (fun m => m.wf = true) _ addrs (fun m a _ h => Memory.write_wf m a (f a) h) m h

theorem Memory.read_overwrite (m : Memory) (addrs : List Nat) (f : Nat → Byte) (a : Nat) :
    (m.overwrite addrs f).read a = if a ∈ addrs then f a else m.read a := by
  unfold Memory.overwrite
  induction addrs generalizing m with
  | nil => simp
  | cons x rest ih =>
    rw [List.foldl_cons, ih, Memory.read_write]
    by_cases h1 : a ∈ rest <;> by_cases h2 : a = x <;> simp_all

theorem mem_addresses (r : Region) (a : Nat) : a ∈ r.addresses ↔ r.has a = true := by
  simp only [Region.addresses, List.mem_map, List.mem_range, Region.has, Bool.and_eq_true, decide_eq_true_eq]
  constructor
  · rintro ⟨k, hk, rfl⟩; omega
  · rintro ⟨h1, h2⟩; exact ⟨a - r.base, by omega, by omega⟩

theorem Memory.scramble_wf (m : Memory) (k : Nat) (r : Region) (h : m.wf = true) : (m.scramble k r).wf = true :=
  Memory.overwrite_wf m _ _ h

/-- Scrambling a range changes no byte outside it. -/
theorem Memory.read_scramble (m : Memory) (k : Nat) (r : Region) (a : Nat) :
    (m.scramble k r).read a = if r.has a then Config.freeByte k a else m.read a := by
  simp [Memory.scramble, Memory.read_overwrite, mem_addresses]

theorem storeBytes_wf (m : Memory) (bytes : List Nat) (v : Word) (h : m.wf = true) :
    (storeBytes m bytes v).wf = true := by
  induction bytes generalizing m v with
  | nil => exact h
  | cons a rest ih => exact ih _ _ (Memory.write_wf m a _ h)

/-- A host store changes no byte outside its own bytes. -/
theorem read_storeBytes_other (m : Memory) (bytes : List Nat) (v : Word) (a : Nat) (h : a ∉ bytes) :
    (storeBytes m bytes v).read a = m.read a := by
  induction bytes generalizing m v with
  | nil => rfl
  | cons x rest ih =>
    simp only [List.mem_cons, not_or] at h
    rw [storeBytes, ih _ _ h.2, Memory.read_write_other _ _ h.1]

end Sys2Proof.Machine
end

