-- ==== Sys2Proof/Laws/Commands.lean ====
section
/-! SUPPORT. What each command's pseudocode does to memory as a whole: it keeps the canonical form, and it writes no byte outside its
write range (rule R67). -/

namespace Sys2Proof.Machine

/-- A pixel of a `w` by `h` image has an index below `w * h` (rule R66). -/
theorem pixel_lt {w h x y : Nat} (hx : x < w) (hy : y < h) : y * w + x < w * h := by
  have : (y + 1) * w ≤ h * w := Nat.mul_le_mul_right w hy
  rw [Nat.add_mul] at this
  rw [Nat.mul_comm w h]
  omega

theorem not_has {r : Region} {a : Nat} (h : r.has a = false) : a < r.base ∨ r.base + r.size ≤ a := by
  simp only [Region.has, Bool.and_eq_false_iff, decide_eq_false_iff_not] at h
  omega

theorem has_iff (r : Region) (a : Nat) : r.has a = true ↔ r.base ≤ a ∧ a < r.base + r.size := by
  simp [Region.has]

/-! ### GRAY -/

theorem grayMemory_wf (aaw : Bool) (p : Params) (m : Memory) (h : m.wf = true) : (grayMemory aaw p m).wf = true :=
  foldl_keeps (fun m => m.wf = true) _ _ (fun m _ _ h => Memory.write_wf m _ _ h) m h

theorem grayMemory_other (aaw : Bool) (p : Params) (m : Memory) (a : Nat)
    (h : (writeRange (.gray aaw) p).has a = false) : (grayMemory aaw p m).read a = m.read a := by
  refine read_foldl_other _ _ a (fun m i hi => ?_) m
  have := not_has h
  simp only [writeRange, List.mem_range] at this hi
  exact Memory.read_write_other _ _ (by omega)

/-! ### THRESH -/

theorem threshMemory_wf (p : Params) (m : Memory) (h : m.wf = true) : (threshMemory p m).wf = true :=
  foldl_keeps (fun m => m.wf = true) _ _ (fun m _ _ h => Memory.write_wf m _ _ h) m h

theorem threshMemory_other (p : Params) (m : Memory) (a : Nat) (h : (writeRange .thresh p).has a = false) :
    (threshMemory p m).read a = m.read a := by
  refine read_foldl_other _ _ a (fun m i hi => ?_) m
  have := not_has h
  simp only [writeRange, List.mem_range] at this hi
  exact Memory.read_write_other _ _ (by omega)

/-! ### DIFFUSE -/

theorem spreadIf_wf (cond : Bool) (addr : Nat) (e w : Int) (m : Memory) (h : m.wf = true) :
    (spreadIf cond addr e w m).wf = true := by
  unfold spreadIf; split
  · exact Memory.write_wf m _ _ h
  · exact h

/-- A spread changes only its target, and only when the target exists. -/
theorem read_spreadIf (cond : Bool) (addr : Nat) (e w : Int) (m : Memory) (a : Nat) :
    (spreadIf cond addr e w m).read a = if cond = true ∧ a = addr then spreadByte (m.read addr) e w else m.read a := by
  unfold spreadIf
  cases cond <;> simp [Memory.read_write]

theorem read_spreadIf_other {cond : Bool} {addr : Nat} {e w : Int} {m : Memory} {a : Nat}
    (h : cond = true → a ≠ addr) : (spreadIf cond addr e w m).read a = m.read a := by
  rw [read_spreadIf, if_neg (fun hc => h hc.1 hc.2)]

theorem diffuseAt_wf (src w h x y : Nat) (m : Memory) (hm : m.wf = true) : (diffuseAt src w h x y m).wf = true :=
  spreadIf_wf _ _ _ _ _ (spreadIf_wf _ _ _ _ _ (spreadIf_wf _ _ _ _ _ (spreadIf_wf _ _ _ _ _ (Memory.write_wf m _ _ hm))))

/-- A visit changes no byte outside the image (rule R155). -/
theorem diffuseAt_other (src w h x y : Nat) (hx : x < w) (hy : y < h) (m : Memory) (a : Nat)
    (ha : a < src ∨ src + w * h ≤ a) : (diffuseAt src w h x y m).read a = m.read a := by
  have h0 := pixel_lt hx hy
  unfold diffuseAt
  simp only [byteAddr]
  rw [read_spreadIf_other, read_spreadIf_other, read_spreadIf_other, read_spreadIf_other, Memory.read_write_other]
  · omega
  · intro hc
    have := pixel_lt (of_decide_eq_true hc) hy
    omega
  · intro hc
    simp only [Bool.and_eq_true, decide_eq_true_eq] at hc
    have := pixel_lt (x := x - 1) (y := y + 1) (w := w) (h := h) (by omega) hc.1
    rw [Nat.add_mul] at this
    omega
  · intro hc
    have := pixel_lt hx (of_decide_eq_true hc)
    rw [Nat.add_mul] at this
    omega
  · intro hc
    simp only [Bool.and_eq_true, decide_eq_true_eq] at hc
    have := pixel_lt hc.2 hc.1
    rw [Nat.add_mul] at this
    omega

theorem diffuseMemory_wf (p : Params) (m : Memory) (h : m.wf = true) : (diffuseMemory p m).wf = true :=
  foldl_keeps (fun m => m.wf = true) _ _
    (fun m _ _ h => foldl_keeps (fun m => m.wf = true) _ _ (fun m _ _ h => diffuseAt_wf _ _ _ _ _ m h) m h) m h

theorem diffuseMemory_other (p : Params) (m : Memory) (a : Nat) (h : (writeRange .diffuse p).has a = false) :
    (diffuseMemory p m).read a = m.read a := by
  refine read_foldl_other _ _ a (fun m y hy => ?_) m
  refine read_foldl_other _ _ a (fun m x hx => ?_) m
  exact diffuseAt_other _ _ _ _ _ (List.mem_range.1 hx) (List.mem_range.1 hy) m a (not_has h)

/-! ### HALFTONE -/

theorem halftoneBlock_wf (w a : Nat) (m : Memory) (h : m.wf = true) : (halftoneBlock w a m).wf = true :=
  foldl_keeps (fun m => m.wf = true) _ _
    (fun m _ _ h => foldl_keeps (fun m => m.wf = true) _ _ (fun m _ _ h => Memory.write_wf m _ _ h) m h) m h

theorem mem_blockOffsets (k : Nat) : k ∈ blockOffsets ↔ k < 4 := by
  simp [blockOffsets, Config.halftoneEdge]

/-- A block changes only its own 16 bytes (rule R176). -/
theorem halftoneBlock_other (w b : Nat) (m : Memory) (a : Nat)
    (h : ∀ yy xx, yy < 4 → xx < 4 → a ≠ b + yy * w + xx) : (halftoneBlock w b m).read a = m.read a := by
  refine read_foldl_other _ _ a (fun m yy hy => ?_) m
  refine read_foldl_other _ _ a (fun m xx hx => ?_) m
  exact Memory.read_write_other _ _ (h yy xx ((mem_blockOffsets yy).1 hy) ((mem_blockOffsets xx).1 hx))

theorem halftoneMemory_wf (p : Params) (m : Memory) (h : m.wf = true) : (halftoneMemory p m).wf = true := by
  refine foldl_keeps (fun m => m.wf = true) _ _ (fun m _ _ h => ?_) _ ?_
  · refine foldl_keeps (fun m => m.wf = true) _ _ (fun m _ _ h => ?_) m h
    split
    · exact Memory.write_wf m _ _ h
    · exact h
  · exact foldl_keeps (fun m => m.wf = true) _ _
      (fun m _ _ h => foldl_keeps (fun m => m.wf = true) _ _ (fun m _ _ h => halftoneBlock_wf _ _ m h) m h) m h

theorem halftoneBlocks_other (p : Params) (m : Memory) (a : Nat) (h : (writeRange .halftone p).has a = false) :
    (halftoneBlocks p m).read a = m.read a := by
  refine read_foldl_other _ _ a (fun m yb hy => ?_) m
  refine read_foldl_other _ _ a (fun m xb hx => ?_) m
  refine halftoneBlock_other _ _ m a (fun yy xx hyy hxx => ?_)
  have hout := not_has h
  simp only [List.mem_range, Config.halftoneEdge, writeRange, pixels] at hx hy hout
  have := pixel_lt (x := 4 * xb + xx) (y := 4 * yb + yy) (w := p.width.toNat) (h := p.height.toNat) (by omega) (by omega)
  simp only [byteAddr, Config.halftoneEdge]
  rw [Nat.add_mul] at this
  omega

theorem halftoneRemainder_other (p : Params) (m : Memory) (a : Nat) (h : (writeRange .halftone p).has a = false) :
    (halftoneRemainder p m).read a = m.read a := by
  refine read_foldl_other _ _ a (fun m y hy => ?_) m
  refine read_foldl_other _ _ a (fun m x hx => ?_) m
  split
  · have hout := not_has h
    have := pixel_lt (List.mem_range.1 hx) (List.mem_range.1 hy)
    simp only [writeRange, pixels] at hout
    exact Memory.read_write_other _ _ (by simp only [byteAddr]; omega)
  · rfl

theorem halftoneMemory_other (p : Params) (m : Memory) (a : Nat) (h : (writeRange .halftone p).has a = false) :
    (halftoneMemory p m).read a = m.read a :=
  (halftoneRemainder_other p _ a h).trans (halftoneBlocks_other p m a h)

/-! ### PACK -/

theorem packMemory_wf (p : Params) (m : Memory) (h : m.wf = true) : (packMemory p m).wf = true :=
  foldl_keeps (fun m => m.wf = true) _ _ (fun m _ _ h => Memory.write_wf m _ _ h) m h

theorem packMemory_other (p : Params) (m : Memory) (a : Nat) (h : (writeRange .pack p).has a = false) :
    (packMemory p m).read a = m.read a := by
  refine read_foldl_other _ _ a (fun m i hi => ?_) m
  have := not_has h
  simp only [writeRange, List.mem_range] at this hi
  exact Memory.read_write_other _ _ (by omega)

/-! ### ROTATE -/

theorem rotateMemory_wf (p : Params) (m : Memory) (h : m.wf = true) : (rotateMemory p m).wf = true :=
  foldl_keeps (fun m => m.wf = true) _ _
    (fun m _ _ h => foldl_keeps (fun m => m.wf = true) _ _ (fun m _ _ h => Memory.write32_wf m _ _ h) m h) m h

theorem rotateMemory_other (p : Params) (m : Memory) (a : Nat) (h : (writeRange .rotate p).has a = false) :
    (rotateMemory p m).read a = m.read a := by
  refine read_foldl_other _ _ a (fun m y hy => ?_) m
  refine read_foldl_other _ _ a (fun m x hx => ?_) m
  have hout := not_has h
  have := pixel_lt (List.mem_range.1 hx) (List.mem_range.1 hy)
  simp only [writeRange, pixels] at hout
  rw [Memory.read_write32, if_neg]
  rw [Nat.mul_comm p.height.toNat] at this
  omega

end Sys2Proof.Machine
end

