-- ==== Sys2Proof/Laws/State.lean ====
section
/-! SUPPORT. One lemma per field per update of the state: what each named update makes of each field. -/

namespace Sys2Proof.Machine

/-! `State.setIrqEn` -/

@[simp] theorem State.setIrqEn_irqEn (s : State) (b : Bool) : (s.setIrqEn b).irqEn = b := rfl
@[simp] theorem State.setIrqEn_status (s : State) (b : Bool) : (s.setIrqEn b).status = s.status := rfl
@[simp] theorem State.setIrqEn_regs (s : State) (b : Bool) : (s.setIrqEn b).regs = s.regs := rfl
@[simp] theorem State.setIrqEn_progress (s : State) (b : Bool) : (s.setIrqEn b).progress = s.progress := rfl
@[simp] theorem State.setIrqEn_errAddr (s : State) (b : Bool) : (s.setIrqEn b).errAddr = s.errAddr := rfl
@[simp] theorem State.setIrqEn_lat (s : State) (b : Bool) : (s.setIrqEn b).lat = s.lat := rfl
@[simp] theorem State.setIrqEn_phase (s : State) (b : Bool) : (s.setIrqEn b).phase = s.phase := rfl
@[simp] theorem State.setIrqEn_mem (s : State) (b : Bool) : (s.setIrqEn b).mem = s.mem := rfl
@[simp] theorem State.setIrqEn_platform (s : State) (b : Bool) : (s.setIrqEn b).platform = s.platform := rfl
@[simp] theorem State.setIrqEn_host (s : State) (b : Bool) : (s.setIrqEn b).host = s.host := rfl
@[simp] theorem State.setIrqEn_others (s : State) (b : Bool) : (s.setIrqEn b).others = s.others := rfl
@[simp] theorem State.setIrqEn_pending (s : State) (b : Bool) : (s.setIrqEn b).pending = s.pending := rfl
@[simp] theorem State.setIrqEn_freeCount (s : State) (b : Bool) : (s.setIrqEn b).freeCount = s.freeCount := rfl

/-! `State.clearFlags` -/

@[simp] theorem State.clearFlags_irqEn (s : State) (d e g : Bool) : (s.clearFlags d e g).irqEn = s.irqEn := rfl
@[simp] theorem State.clearFlags_status (s : State) (d e g : Bool) :
    (s.clearFlags d e g).status = { s.status with done := s.status.done && !d, err := s.status.err && !e, ign := s.status.ign && !g } := rfl
@[simp] theorem State.clearFlags_regs (s : State) (d e g : Bool) : (s.clearFlags d e g).regs = s.regs := rfl
@[simp] theorem State.clearFlags_progress (s : State) (d e g : Bool) :
    (s.clearFlags d e g).progress = s.progress := rfl
@[simp] theorem State.clearFlags_errAddr (s : State) (d e g : Bool) : (s.clearFlags d e g).errAddr = s.errAddr := rfl
@[simp] theorem State.clearFlags_lat (s : State) (d e g : Bool) : (s.clearFlags d e g).lat = s.lat := rfl
@[simp] theorem State.clearFlags_phase (s : State) (d e g : Bool) : (s.clearFlags d e g).phase = s.phase := rfl
@[simp] theorem State.clearFlags_mem (s : State) (d e g : Bool) : (s.clearFlags d e g).mem = s.mem := rfl
@[simp] theorem State.clearFlags_platform (s : State) (d e g : Bool) :
    (s.clearFlags d e g).platform = s.platform := rfl
@[simp] theorem State.clearFlags_host (s : State) (d e g : Bool) : (s.clearFlags d e g).host = s.host := rfl
@[simp] theorem State.clearFlags_others (s : State) (d e g : Bool) : (s.clearFlags d e g).others = s.others := rfl
@[simp] theorem State.clearFlags_pending (s : State) (d e g : Bool) : (s.clearFlags d e g).pending = s.pending := rfl
@[simp] theorem State.clearFlags_freeCount (s : State) (d e g : Bool) :
    (s.clearFlags d e g).freeCount = s.freeCount := rfl

/-! `State.setIgn` -/

@[simp] theorem State.setIgn_irqEn (s : State) : (s.setIgn).irqEn = s.irqEn := rfl
@[simp] theorem State.setIgn_status (s : State) : (s.setIgn).status = { s.status with ign := true } := rfl
@[simp] theorem State.setIgn_regs (s : State) : (s.setIgn).regs = s.regs := rfl
@[simp] theorem State.setIgn_progress (s : State) : (s.setIgn).progress = s.progress := rfl
@[simp] theorem State.setIgn_errAddr (s : State) : (s.setIgn).errAddr = s.errAddr := rfl
@[simp] theorem State.setIgn_lat (s : State) : (s.setIgn).lat = s.lat := rfl
@[simp] theorem State.setIgn_phase (s : State) : (s.setIgn).phase = s.phase := rfl
@[simp] theorem State.setIgn_mem (s : State) : (s.setIgn).mem = s.mem := rfl
@[simp] theorem State.setIgn_platform (s : State) : (s.setIgn).platform = s.platform := rfl
@[simp] theorem State.setIgn_host (s : State) : (s.setIgn).host = s.host := rfl
@[simp] theorem State.setIgn_others (s : State) : (s.setIgn).others = s.others := rfl
@[simp] theorem State.setIgn_pending (s : State) : (s.setIgn).pending = s.pending := rfl
@[simp] theorem State.setIgn_freeCount (s : State) : (s.setIgn).freeCount = s.freeCount := rfl

/-! `State.clearOutcome` -/

@[simp] theorem State.clearOutcome_irqEn (s : State) : (s.clearOutcome).irqEn = s.irqEn := rfl
@[simp] theorem State.clearOutcome_status (s : State) :
    (s.clearOutcome).status = { s.status with done := false, err := false, errCode := .none } := rfl
@[simp] theorem State.clearOutcome_regs (s : State) : (s.clearOutcome).regs = s.regs := rfl
@[simp] theorem State.clearOutcome_progress (s : State) : (s.clearOutcome).progress = 0#32 := rfl
@[simp] theorem State.clearOutcome_errAddr (s : State) : (s.clearOutcome).errAddr = 0#32 := rfl
@[simp] theorem State.clearOutcome_lat (s : State) : (s.clearOutcome).lat = s.lat := rfl
@[simp] theorem State.clearOutcome_phase (s : State) : (s.clearOutcome).phase = s.phase := rfl
@[simp] theorem State.clearOutcome_mem (s : State) : (s.clearOutcome).mem = s.mem := rfl
@[simp] theorem State.clearOutcome_platform (s : State) : (s.clearOutcome).platform = s.platform := rfl
@[simp] theorem State.clearOutcome_host (s : State) : (s.clearOutcome).host = s.host := rfl
@[simp] theorem State.clearOutcome_others (s : State) : (s.clearOutcome).others = s.others := rfl
@[simp] theorem State.clearOutcome_pending (s : State) : (s.clearOutcome).pending = s.pending := rfl
@[simp] theorem State.clearOutcome_freeCount (s : State) : (s.clearOutcome).freeCount = s.freeCount := rfl

/-! `State.setMem` -/

@[simp] theorem State.setMem_irqEn (s : State) (m : Memory) : (s.setMem m).irqEn = s.irqEn := rfl
@[simp] theorem State.setMem_status (s : State) (m : Memory) : (s.setMem m).status = s.status := rfl
@[simp] theorem State.setMem_regs (s : State) (m : Memory) : (s.setMem m).regs = s.regs := rfl
@[simp] theorem State.setMem_progress (s : State) (m : Memory) : (s.setMem m).progress = s.progress := rfl
@[simp] theorem State.setMem_errAddr (s : State) (m : Memory) : (s.setMem m).errAddr = s.errAddr := rfl
@[simp] theorem State.setMem_lat (s : State) (m : Memory) : (s.setMem m).lat = s.lat := rfl
@[simp] theorem State.setMem_phase (s : State) (m : Memory) : (s.setMem m).phase = s.phase := rfl
@[simp] theorem State.setMem_mem (s : State) (m : Memory) : (s.setMem m).mem = m := rfl
@[simp] theorem State.setMem_platform (s : State) (m : Memory) : (s.setMem m).platform = s.platform := rfl
@[simp] theorem State.setMem_host (s : State) (m : Memory) : (s.setMem m).host = s.host := rfl
@[simp] theorem State.setMem_others (s : State) (m : Memory) : (s.setMem m).others = s.others := rfl
@[simp] theorem State.setMem_pending (s : State) (m : Memory) : (s.setMem m).pending = s.pending := rfl
@[simp] theorem State.setMem_freeCount (s : State) (m : Memory) : (s.setMem m).freeCount = s.freeCount := rfl

/-! `State.draw` -/

@[simp] theorem State.draw_irqEn (s : State) (n : Nat) : (s.draw n).irqEn = s.irqEn := rfl
@[simp] theorem State.draw_status (s : State) (n : Nat) : (s.draw n).status = s.status := rfl
@[simp] theorem State.draw_regs (s : State) (n : Nat) : (s.draw n).regs = s.regs := rfl
@[simp] theorem State.draw_progress (s : State) (n : Nat) : (s.draw n).progress = s.progress := rfl
@[simp] theorem State.draw_errAddr (s : State) (n : Nat) : (s.draw n).errAddr = s.errAddr := rfl
@[simp] theorem State.draw_lat (s : State) (n : Nat) : (s.draw n).lat = s.lat := rfl
@[simp] theorem State.draw_phase (s : State) (n : Nat) : (s.draw n).phase = s.phase := rfl
@[simp] theorem State.draw_mem (s : State) (n : Nat) : (s.draw n).mem = s.mem := rfl
@[simp] theorem State.draw_platform (s : State) (n : Nat) : (s.draw n).platform = s.platform := rfl
@[simp] theorem State.draw_host (s : State) (n : Nat) : (s.draw n).host = s.host := rfl
@[simp] theorem State.draw_others (s : State) (n : Nat) : (s.draw n).others = s.others := rfl
@[simp] theorem State.draw_pending (s : State) (n : Nat) : (s.draw n).pending = s.pending := rfl
@[simp] theorem State.draw_freeCount (s : State) (n : Nat) : (s.draw n).freeCount = s.freeCount + n := rfl

/-! `State.forgetLatches` -/

@[simp] theorem State.forgetLatches_irqEn (s : State) : (s.forgetLatches).irqEn = s.irqEn := rfl
@[simp] theorem State.forgetLatches_status (s : State) : (s.forgetLatches).status = s.status := rfl
@[simp] theorem State.forgetLatches_regs (s : State) : (s.forgetLatches).regs = s.regs := rfl
@[simp] theorem State.forgetLatches_progress (s : State) : (s.forgetLatches).progress = s.progress := rfl
@[simp] theorem State.forgetLatches_errAddr (s : State) : (s.forgetLatches).errAddr = s.errAddr := rfl
@[simp] theorem State.forgetLatches_lat (s : State) : (s.forgetLatches).lat = freeLatches s.freeCount := rfl
@[simp] theorem State.forgetLatches_phase (s : State) : (s.forgetLatches).phase = s.phase := rfl
@[simp] theorem State.forgetLatches_mem (s : State) : (s.forgetLatches).mem = s.mem := rfl
@[simp] theorem State.forgetLatches_platform (s : State) : (s.forgetLatches).platform = s.platform := rfl
@[simp] theorem State.forgetLatches_host (s : State) : (s.forgetLatches).host = s.host := rfl
@[simp] theorem State.forgetLatches_others (s : State) : (s.forgetLatches).others = s.others := rfl
@[simp] theorem State.forgetLatches_pending (s : State) : (s.forgetLatches).pending = s.pending := rfl
@[simp] theorem State.forgetLatches_freeCount (s : State) : (s.forgetLatches).freeCount = s.freeCount + 1 := rfl

/-! `State.latchOperands` -/

@[simp] theorem State.latchOperands_irqEn (s : State) : (s.latchOperands).irqEn = s.irqEn := rfl
@[simp] theorem State.latchOperands_status (s : State) : (s.latchOperands).status = s.status := rfl
@[simp] theorem State.latchOperands_regs (s : State) : (s.latchOperands).regs = s.regs := rfl
@[simp] theorem State.latchOperands_progress (s : State) : (s.latchOperands).progress = s.progress := rfl
@[simp] theorem State.latchOperands_errAddr (s : State) : (s.latchOperands).errAddr = s.errAddr := rfl
@[simp] theorem State.latchOperands_lat (s : State) : (s.latchOperands).lat = s.regs := rfl
@[simp] theorem State.latchOperands_phase (s : State) : (s.latchOperands).phase = s.phase := rfl
@[simp] theorem State.latchOperands_mem (s : State) : (s.latchOperands).mem = s.mem := rfl
@[simp] theorem State.latchOperands_platform (s : State) : (s.latchOperands).platform = s.platform := rfl
@[simp] theorem State.latchOperands_host (s : State) : (s.latchOperands).host = s.host := rfl
@[simp] theorem State.latchOperands_others (s : State) : (s.latchOperands).others = s.others := rfl
@[simp] theorem State.latchOperands_pending (s : State) : (s.latchOperands).pending = s.pending := rfl
@[simp] theorem State.latchOperands_freeCount (s : State) : (s.latchOperands).freeCount = s.freeCount := rfl

/-! `State.enterRun` -/

@[simp] theorem State.enterRun_irqEn (s : State) (c : Claim) : (s.enterRun c).irqEn = s.irqEn := rfl
@[simp] theorem State.enterRun_status (s : State) (c : Claim) : (s.enterRun c).status = s.status := rfl
@[simp] theorem State.enterRun_regs (s : State) (c : Claim) : (s.enterRun c).regs = s.regs := rfl
@[simp] theorem State.enterRun_progress (s : State) (c : Claim) : (s.enterRun c).progress = s.progress := rfl
@[simp] theorem State.enterRun_errAddr (s : State) (c : Claim) : (s.enterRun c).errAddr = s.errAddr := rfl
@[simp] theorem State.enterRun_lat (s : State) (c : Claim) : (s.enterRun c).lat = s.lat := rfl
@[simp] theorem State.enterRun_phase (s : State) (c : Claim) : (s.enterRun c).phase = .run := rfl
@[simp] theorem State.enterRun_mem (s : State) (c : Claim) : (s.enterRun c).mem = s.mem := rfl
@[simp] theorem State.enterRun_platform (s : State) (c : Claim) : (s.enterRun c).platform = s.platform := rfl
@[simp] theorem State.enterRun_host (s : State) (c : Claim) :
    (s.enterRun c).host = { s.host with borrows := c :: s.host.borrows, dirty := removeRegion s.host.dirty c.writes } := rfl
@[simp] theorem State.enterRun_others (s : State) (c : Claim) : (s.enterRun c).others = s.others := rfl
@[simp] theorem State.enterRun_pending (s : State) (c : Claim) : (s.enterRun c).pending = s.pending := rfl
@[simp] theorem State.enterRun_freeCount (s : State) (c : Claim) : (s.enterRun c).freeCount = s.freeCount := rfl

/-! `State.raiseError` -/

@[simp] theorem State.raiseError_irqEn (s : State) (code : ErrCode) (addr : Word) :
    (s.raiseError code addr).irqEn = s.irqEn := rfl
@[simp] theorem State.raiseError_status (s : State) (code : ErrCode) (addr : Word) :
    (s.raiseError code addr).status = { s.status with err := true, errCode := code } := rfl
@[simp] theorem State.raiseError_regs (s : State) (code : ErrCode) (addr : Word) :
    (s.raiseError code addr).regs = s.regs := rfl
@[simp] theorem State.raiseError_progress (s : State) (code : ErrCode) (addr : Word) :
    (s.raiseError code addr).progress = s.progress := rfl
@[simp] theorem State.raiseError_errAddr (s : State) (code : ErrCode) (addr : Word) :
    (s.raiseError code addr).errAddr = addr := rfl
@[simp] theorem State.raiseError_lat (s : State) (code : ErrCode) (addr : Word) :
    (s.raiseError code addr).lat = s.lat := rfl
@[simp] theorem State.raiseError_phase (s : State) (code : ErrCode) (addr : Word) :
    (s.raiseError code addr).phase = .idle := rfl
@[simp] theorem State.raiseError_mem (s : State) (code : ErrCode) (addr : Word) :
    (s.raiseError code addr).mem = s.mem := rfl
@[simp] theorem State.raiseError_platform (s : State) (code : ErrCode) (addr : Word) :
    (s.raiseError code addr).platform = s.platform := rfl
@[simp] theorem State.raiseError_host (s : State) (code : ErrCode) (addr : Word) :
    (s.raiseError code addr).host = s.host := rfl
@[simp] theorem State.raiseError_others (s : State) (code : ErrCode) (addr : Word) :
    (s.raiseError code addr).others = s.others := rfl
@[simp] theorem State.raiseError_pending (s : State) (code : ErrCode) (addr : Word) :
    (s.raiseError code addr).pending = s.pending := rfl
@[simp] theorem State.raiseError_freeCount (s : State) (code : ErrCode) (addr : Word) :
    (s.raiseError code addr).freeCount = s.freeCount := rfl

/-! `State.setProgress` -/

@[simp] theorem State.setProgress_irqEn (s : State) (n : Word) : (s.setProgress n).irqEn = s.irqEn := rfl
@[simp] theorem State.setProgress_status (s : State) (n : Word) : (s.setProgress n).status = s.status := rfl
@[simp] theorem State.setProgress_regs (s : State) (n : Word) : (s.setProgress n).regs = s.regs := rfl
@[simp] theorem State.setProgress_progress (s : State) (n : Word) : (s.setProgress n).progress = n := rfl
@[simp] theorem State.setProgress_errAddr (s : State) (n : Word) : (s.setProgress n).errAddr = s.errAddr := rfl
@[simp] theorem State.setProgress_lat (s : State) (n : Word) : (s.setProgress n).lat = s.lat := rfl
@[simp] theorem State.setProgress_phase (s : State) (n : Word) : (s.setProgress n).phase = s.phase := rfl
@[simp] theorem State.setProgress_mem (s : State) (n : Word) : (s.setProgress n).mem = s.mem := rfl
@[simp] theorem State.setProgress_platform (s : State) (n : Word) : (s.setProgress n).platform = s.platform := rfl
@[simp] theorem State.setProgress_host (s : State) (n : Word) : (s.setProgress n).host = s.host := rfl
@[simp] theorem State.setProgress_others (s : State) (n : Word) : (s.setProgress n).others = s.others := rfl
@[simp] theorem State.setProgress_pending (s : State) (n : Word) : (s.setProgress n).pending = s.pending := rfl
@[simp] theorem State.setProgress_freeCount (s : State) (n : Word) : (s.setProgress n).freeCount = s.freeCount := rfl

/-! `State.resetRegisters` -/

@[simp] theorem State.resetRegisters_irqEn (s : State) (l : Params) : (s.resetRegisters l).irqEn = false := rfl
@[simp] theorem State.resetRegisters_status (s : State) (l : Params) :
    (s.resetRegisters l).status = Status.reset := rfl
@[simp] theorem State.resetRegisters_regs (s : State) (l : Params) : (s.resetRegisters l).regs = Params.reset := rfl
@[simp] theorem State.resetRegisters_progress (s : State) (l : Params) : (s.resetRegisters l).progress = 0#32 := rfl
@[simp] theorem State.resetRegisters_errAddr (s : State) (l : Params) : (s.resetRegisters l).errAddr = 0#32 := rfl
@[simp] theorem State.resetRegisters_lat (s : State) (l : Params) : (s.resetRegisters l).lat = l := rfl
@[simp] theorem State.resetRegisters_phase (s : State) (l : Params) : (s.resetRegisters l).phase = .idle := rfl
@[simp] theorem State.resetRegisters_mem (s : State) (l : Params) : (s.resetRegisters l).mem = s.mem := rfl
@[simp] theorem State.resetRegisters_platform (s : State) (l : Params) :
    (s.resetRegisters l).platform = s.platform := rfl
@[simp] theorem State.resetRegisters_host (s : State) (l : Params) :
    (s.resetRegisters l).host = { s.host with borrows := [] } := rfl
@[simp] theorem State.resetRegisters_others (s : State) (l : Params) : (s.resetRegisters l).others = s.others := rfl
@[simp] theorem State.resetRegisters_pending (s : State) (l : Params) :
    (s.resetRegisters l).pending = s.pending := rfl
@[simp] theorem State.resetRegisters_freeCount (s : State) (l : Params) :
    (s.resetRegisters l).freeCount = s.freeCount := rfl

/-! `State.setRegs` -/

@[simp] theorem State.setRegs_irqEn (s : State) (p : Params) : (s.setRegs p).irqEn = s.irqEn := rfl
@[simp] theorem State.setRegs_status (s : State) (p : Params) : (s.setRegs p).status = s.status := rfl
@[simp] theorem State.setRegs_regs (s : State) (p : Params) : (s.setRegs p).regs = p := rfl
@[simp] theorem State.setRegs_progress (s : State) (p : Params) : (s.setRegs p).progress = s.progress := rfl
@[simp] theorem State.setRegs_errAddr (s : State) (p : Params) : (s.setRegs p).errAddr = s.errAddr := rfl
@[simp] theorem State.setRegs_lat (s : State) (p : Params) : (s.setRegs p).lat = s.lat := rfl
@[simp] theorem State.setRegs_phase (s : State) (p : Params) : (s.setRegs p).phase = s.phase := rfl
@[simp] theorem State.setRegs_mem (s : State) (p : Params) : (s.setRegs p).mem = s.mem := rfl
@[simp] theorem State.setRegs_platform (s : State) (p : Params) : (s.setRegs p).platform = s.platform := rfl
@[simp] theorem State.setRegs_host (s : State) (p : Params) : (s.setRegs p).host = s.host := rfl
@[simp] theorem State.setRegs_others (s : State) (p : Params) : (s.setRegs p).others = s.others := rfl
@[simp] theorem State.setRegs_pending (s : State) (p : Params) : (s.setRegs p).pending = s.pending := rfl
@[simp] theorem State.setRegs_freeCount (s : State) (p : Params) : (s.setRegs p).freeCount = s.freeCount := rfl

/-! `State.setHost` -/

@[simp] theorem State.setHost_irqEn (s : State) (h : HostView) : (s.setHost h).irqEn = s.irqEn := rfl
@[simp] theorem State.setHost_status (s : State) (h : HostView) : (s.setHost h).status = s.status := rfl
@[simp] theorem State.setHost_regs (s : State) (h : HostView) : (s.setHost h).regs = s.regs := rfl
@[simp] theorem State.setHost_progress (s : State) (h : HostView) : (s.setHost h).progress = s.progress := rfl
@[simp] theorem State.setHost_errAddr (s : State) (h : HostView) : (s.setHost h).errAddr = s.errAddr := rfl
@[simp] theorem State.setHost_lat (s : State) (h : HostView) : (s.setHost h).lat = s.lat := rfl
@[simp] theorem State.setHost_phase (s : State) (h : HostView) : (s.setHost h).phase = s.phase := rfl
@[simp] theorem State.setHost_mem (s : State) (h : HostView) : (s.setHost h).mem = s.mem := rfl
@[simp] theorem State.setHost_platform (s : State) (h : HostView) : (s.setHost h).platform = s.platform := rfl
@[simp] theorem State.setHost_host (s : State) (h : HostView) : (s.setHost h).host = h := rfl
@[simp] theorem State.setHost_others (s : State) (h : HostView) : (s.setHost h).others = s.others := rfl
@[simp] theorem State.setHost_pending (s : State) (h : HostView) : (s.setHost h).pending = s.pending := rfl
@[simp] theorem State.setHost_freeCount (s : State) (h : HostView) : (s.setHost h).freeCount = s.freeCount := rfl

/-! `State.returned` -/

@[simp] theorem State.returned_irqEn (s : State) (v : Word) : (s.returned v).irqEn = s.irqEn := rfl
@[simp] theorem State.returned_status (s : State) (v : Word) : (s.returned v).status = s.status := rfl
@[simp] theorem State.returned_regs (s : State) (v : Word) : (s.returned v).regs = s.regs := rfl
@[simp] theorem State.returned_progress (s : State) (v : Word) : (s.returned v).progress = s.progress := rfl
@[simp] theorem State.returned_errAddr (s : State) (v : Word) : (s.returned v).errAddr = s.errAddr := rfl
@[simp] theorem State.returned_lat (s : State) (v : Word) : (s.returned v).lat = s.lat := rfl
@[simp] theorem State.returned_phase (s : State) (v : Word) : (s.returned v).phase = s.phase := rfl
@[simp] theorem State.returned_mem (s : State) (v : Word) : (s.returned v).mem = s.mem := rfl
@[simp] theorem State.returned_platform (s : State) (v : Word) : (s.returned v).platform = s.platform := rfl
@[simp] theorem State.returned_host (s : State) (v : Word) :
    (s.returned v).host = { s.host with lastRead := some v } := rfl
@[simp] theorem State.returned_others (s : State) (v : Word) : (s.returned v).others = s.others := rfl
@[simp] theorem State.returned_pending (s : State) (v : Word) : (s.returned v).pending = s.pending := rfl
@[simp] theorem State.returned_freeCount (s : State) (v : Word) : (s.returned v).freeCount = s.freeCount := rfl

/-! `State.endSeen` -/

@[simp] theorem State.endSeen_irqEn (s : State) : (s.endSeen).irqEn = s.irqEn := rfl
@[simp] theorem State.endSeen_status (s : State) : (s.endSeen).status = s.status := rfl
@[simp] theorem State.endSeen_regs (s : State) : (s.endSeen).regs = s.regs := rfl
@[simp] theorem State.endSeen_progress (s : State) : (s.endSeen).progress = s.progress := rfl
@[simp] theorem State.endSeen_errAddr (s : State) : (s.endSeen).errAddr = s.errAddr := rfl
@[simp] theorem State.endSeen_lat (s : State) : (s.endSeen).lat = s.lat := rfl
@[simp] theorem State.endSeen_phase (s : State) : (s.endSeen).phase = s.phase := rfl
@[simp] theorem State.endSeen_mem (s : State) : (s.endSeen).mem = s.mem := rfl
@[simp] theorem State.endSeen_platform (s : State) : (s.endSeen).platform = s.platform := rfl
@[simp] theorem State.endSeen_host (s : State) : (s.endSeen).host = { s.host with borrows := [] } := rfl
@[simp] theorem State.endSeen_others (s : State) : (s.endSeen).others = s.others := rfl
@[simp] theorem State.endSeen_pending (s : State) : (s.endSeen).pending = s.pending := rfl
@[simp] theorem State.endSeen_freeCount (s : State) : (s.endSeen).freeCount = s.freeCount := rfl

/-! `State.setPending` -/

@[simp] theorem State.setPending_irqEn (s : State) (es : List Event) : (s.setPending es).irqEn = s.irqEn := rfl
@[simp] theorem State.setPending_status (s : State) (es : List Event) : (s.setPending es).status = s.status := rfl
@[simp] theorem State.setPending_regs (s : State) (es : List Event) : (s.setPending es).regs = s.regs := rfl
@[simp] theorem State.setPending_progress (s : State) (es : List Event) :
    (s.setPending es).progress = s.progress := rfl
@[simp] theorem State.setPending_errAddr (s : State) (es : List Event) : (s.setPending es).errAddr = s.errAddr := rfl
@[simp] theorem State.setPending_lat (s : State) (es : List Event) : (s.setPending es).lat = s.lat := rfl
@[simp] theorem State.setPending_phase (s : State) (es : List Event) : (s.setPending es).phase = s.phase := rfl
@[simp] theorem State.setPending_mem (s : State) (es : List Event) : (s.setPending es).mem = s.mem := rfl
@[simp] theorem State.setPending_platform (s : State) (es : List Event) :
    (s.setPending es).platform = s.platform := rfl
@[simp] theorem State.setPending_host (s : State) (es : List Event) : (s.setPending es).host = s.host := rfl
@[simp] theorem State.setPending_others (s : State) (es : List Event) : (s.setPending es).others = s.others := rfl
@[simp] theorem State.setPending_pending (s : State) (es : List Event) : (s.setPending es).pending = es := rfl
@[simp] theorem State.setPending_freeCount (s : State) (es : List Event) :
    (s.setPending es).freeCount = s.freeCount := rfl

/-! `State.setOthers` -/

@[simp] theorem State.setOthers_irqEn (s : State) (cs : List Claim) : (s.setOthers cs).irqEn = s.irqEn := rfl
@[simp] theorem State.setOthers_status (s : State) (cs : List Claim) : (s.setOthers cs).status = s.status := rfl
@[simp] theorem State.setOthers_regs (s : State) (cs : List Claim) : (s.setOthers cs).regs = s.regs := rfl
@[simp] theorem State.setOthers_progress (s : State) (cs : List Claim) : (s.setOthers cs).progress = s.progress := rfl
@[simp] theorem State.setOthers_errAddr (s : State) (cs : List Claim) : (s.setOthers cs).errAddr = s.errAddr := rfl
@[simp] theorem State.setOthers_lat (s : State) (cs : List Claim) : (s.setOthers cs).lat = s.lat := rfl
@[simp] theorem State.setOthers_phase (s : State) (cs : List Claim) : (s.setOthers cs).phase = s.phase := rfl
@[simp] theorem State.setOthers_mem (s : State) (cs : List Claim) : (s.setOthers cs).mem = s.mem := rfl
@[simp] theorem State.setOthers_platform (s : State) (cs : List Claim) : (s.setOthers cs).platform = s.platform := rfl
@[simp] theorem State.setOthers_host (s : State) (cs : List Claim) : (s.setOthers cs).host = s.host := rfl
@[simp] theorem State.setOthers_others (s : State) (cs : List Claim) : (s.setOthers cs).others = cs := rfl
@[simp] theorem State.setOthers_pending (s : State) (cs : List Claim) : (s.setOthers cs).pending = s.pending := rfl
@[simp] theorem State.setOthers_freeCount (s : State) (cs : List Claim) :
    (s.setOthers cs).freeCount = s.freeCount := rfl

/-! `State.withCommand` -/

@[simp] theorem State.withCommand_irqEn (s : State) (w : Word) : (s.withCommand w).irqEn = s.irqEn := rfl
@[simp] theorem State.withCommand_status (s : State) (w : Word) : (s.withCommand w).status = s.status := rfl
@[simp] theorem State.withCommand_regs (s : State) (w : Word) : (s.withCommand w).regs = s.regs := rfl
@[simp] theorem State.withCommand_progress (s : State) (w : Word) : (s.withCommand w).progress = s.progress := rfl
@[simp] theorem State.withCommand_errAddr (s : State) (w : Word) : (s.withCommand w).errAddr = s.errAddr := rfl
@[simp] theorem State.withCommand_lat (s : State) (w : Word) : (s.withCommand w).lat = { s.lat with cmd := w } := rfl
@[simp] theorem State.withCommand_phase (s : State) (w : Word) : (s.withCommand w).phase = .run := rfl
@[simp] theorem State.withCommand_mem (s : State) (w : Word) : (s.withCommand w).mem = s.mem := rfl
@[simp] theorem State.withCommand_platform (s : State) (w : Word) : (s.withCommand w).platform = s.platform := rfl
@[simp] theorem State.withCommand_host (s : State) (w : Word) : (s.withCommand w).host = s.host := rfl
@[simp] theorem State.withCommand_others (s : State) (w : Word) : (s.withCommand w).others = s.others := rfl
@[simp] theorem State.withCommand_pending (s : State) (w : Word) :
    (s.withCommand w).pending = finishNext s.pending := rfl
@[simp] theorem State.withCommand_freeCount (s : State) (w : Word) : (s.withCommand w).freeCount = s.freeCount := rfl

/-! `State.withWrite` -/

@[simp] theorem State.withWrite_irqEn (s : State) (r : Reg) (w : Word) : (s.withWrite r w).irqEn = s.irqEn := rfl
@[simp] theorem State.withWrite_status (s : State) (r : Reg) (w : Word) : (s.withWrite r w).status = s.status := rfl
@[simp] theorem State.withWrite_regs (s : State) (r : Reg) (w : Word) : (s.withWrite r w).regs = s.regs := rfl
@[simp] theorem State.withWrite_progress (s : State) (r : Reg) (w : Word) :
    (s.withWrite r w).progress = s.progress := rfl
@[simp] theorem State.withWrite_errAddr (s : State) (r : Reg) (w : Word) :
    (s.withWrite r w).errAddr = s.errAddr := rfl
@[simp] theorem State.withWrite_lat (s : State) (r : Reg) (w : Word) : (s.withWrite r w).lat = s.lat := rfl
@[simp] theorem State.withWrite_phase (s : State) (r : Reg) (w : Word) : (s.withWrite r w).phase = s.phase := rfl
@[simp] theorem State.withWrite_mem (s : State) (r : Reg) (w : Word) : (s.withWrite r w).mem = s.mem := rfl
@[simp] theorem State.withWrite_platform (s : State) (r : Reg) (w : Word) :
    (s.withWrite r w).platform = s.platform := rfl
@[simp] theorem State.withWrite_host (s : State) (r : Reg) (w : Word) : (s.withWrite r w).host = s.host := rfl
@[simp] theorem State.withWrite_others (s : State) (r : Reg) (w : Word) : (s.withWrite r w).others = s.others := rfl
@[simp] theorem State.withWrite_pending (s : State) (r : Reg) (w : Word) :
    (s.withWrite r w).pending = wr s.platform r w :: s.pending := rfl
@[simp] theorem State.withWrite_freeCount (s : State) (r : Reg) (w : Word) :
    (s.withWrite r w).freeCount = s.freeCount := rfl

/-! `complete` -/

@[simp] theorem complete_irqEn (i : Instr) (s : State) :
    (complete i s).irqEn = s.irqEn := rfl
@[simp] theorem complete_status (i : Instr) (s : State) :
    (complete i s).status = { s.status with errCode := .none, done := true } := rfl
@[simp] theorem complete_regs (i : Instr) (s : State) :
    (complete i s).regs = s.regs := rfl
@[simp] theorem complete_progress (i : Instr) (s : State) :
    (complete i s).progress = BitVec.ofNat 32 (elements i s.lat) := rfl
@[simp] theorem complete_errAddr (i : Instr) (s : State) :
    (complete i s).errAddr = s.errAddr := rfl
@[simp] theorem complete_lat (i : Instr) (s : State) :
    (complete i s).lat = s.lat := rfl
@[simp] theorem complete_phase (i : Instr) (s : State) :
    (complete i s).phase = .idle := rfl
@[simp] theorem complete_mem (i : Instr) (s : State) :
    (complete i s).mem = s.mem := rfl
@[simp] theorem complete_platform (i : Instr) (s : State) :
    (complete i s).platform = s.platform := rfl
@[simp] theorem complete_host (i : Instr) (s : State) :
    (complete i s).host = s.host := rfl
@[simp] theorem complete_others (i : Instr) (s : State) :
    (complete i s).others = s.others := rfl
@[simp] theorem complete_pending (i : Instr) (s : State) :
    (complete i s).pending = s.pending := rfl
@[simp] theorem complete_freeCount (i : Instr) (s : State) :
    (complete i s).freeCount = s.freeCount := rfl

/-! `State.markWritten` and `State.markDirty`: only the record of the host can change. -/

@[simp] theorem State.markWritten_irqEn (s : State) (r : Region) : (s.markWritten r).irqEn = s.irqEn := by
  unfold State.markWritten; split <;> rfl
@[simp] theorem State.markWritten_status (s : State) (r : Region) : (s.markWritten r).status = s.status := by
  unfold State.markWritten; split <;> rfl
@[simp] theorem State.markWritten_regs (s : State) (r : Region) : (s.markWritten r).regs = s.regs := by
  unfold State.markWritten; split <;> rfl
@[simp] theorem State.markWritten_progress (s : State) (r : Region) : (s.markWritten r).progress = s.progress := by
  unfold State.markWritten; split <;> rfl
@[simp] theorem State.markWritten_errAddr (s : State) (r : Region) : (s.markWritten r).errAddr = s.errAddr := by
  unfold State.markWritten; split <;> rfl
@[simp] theorem State.markWritten_lat (s : State) (r : Region) : (s.markWritten r).lat = s.lat := by
  unfold State.markWritten; split <;> rfl
@[simp] theorem State.markWritten_phase (s : State) (r : Region) : (s.markWritten r).phase = s.phase := by
  unfold State.markWritten; split <;> rfl
@[simp] theorem State.markWritten_mem (s : State) (r : Region) : (s.markWritten r).mem = s.mem := by
  unfold State.markWritten; split <;> rfl
@[simp] theorem State.markWritten_platform (s : State) (r : Region) : (s.markWritten r).platform = s.platform := by
  unfold State.markWritten; split <;> rfl
@[simp] theorem State.markWritten_others (s : State) (r : Region) : (s.markWritten r).others = s.others := by
  unfold State.markWritten; split <;> rfl
@[simp] theorem State.markWritten_pending (s : State) (r : Region) : (s.markWritten r).pending = s.pending := by
  unfold State.markWritten; split <;> rfl
@[simp] theorem State.markWritten_freeCount (s : State) (r : Region) : (s.markWritten r).freeCount = s.freeCount := by
  unfold State.markWritten; split <;> rfl

@[simp] theorem State.markDirty_irqEn (s : State) (bytes : List Nat) : (s.markDirty bytes).irqEn = s.irqEn := by
  unfold State.markDirty; split <;> rfl
@[simp] theorem State.markDirty_status (s : State) (bytes : List Nat) : (s.markDirty bytes).status = s.status := by
  unfold State.markDirty; split <;> rfl
@[simp] theorem State.markDirty_regs (s : State) (bytes : List Nat) : (s.markDirty bytes).regs = s.regs := by
  unfold State.markDirty; split <;> rfl
@[simp] theorem State.markDirty_progress (s : State) (bytes : List Nat) : (s.markDirty bytes).progress = s.progress := by
  unfold State.markDirty; split <;> rfl
@[simp] theorem State.markDirty_errAddr (s : State) (bytes : List Nat) : (s.markDirty bytes).errAddr = s.errAddr := by
  unfold State.markDirty; split <;> rfl
@[simp] theorem State.markDirty_lat (s : State) (bytes : List Nat) : (s.markDirty bytes).lat = s.lat := by
  unfold State.markDirty; split <;> rfl
@[simp] theorem State.markDirty_phase (s : State) (bytes : List Nat) : (s.markDirty bytes).phase = s.phase := by
  unfold State.markDirty; split <;> rfl
@[simp] theorem State.markDirty_mem (s : State) (bytes : List Nat) : (s.markDirty bytes).mem = s.mem := by
  unfold State.markDirty; split <;> rfl
@[simp] theorem State.markDirty_platform (s : State) (bytes : List Nat) : (s.markDirty bytes).platform = s.platform := by
  unfold State.markDirty; split <;> rfl
@[simp] theorem State.markDirty_others (s : State) (bytes : List Nat) : (s.markDirty bytes).others = s.others := by
  unfold State.markDirty; split <;> rfl
@[simp] theorem State.markDirty_pending (s : State) (bytes : List Nat) : (s.markDirty bytes).pending = s.pending := by
  unfold State.markDirty; split <;> rfl
@[simp] theorem State.markDirty_freeCount (s : State) (bytes : List Nat) : (s.markDirty bytes).freeCount = s.freeCount := by
  unfold State.markDirty; split <;> rfl

/-- Marking written bytes changes only the stale list, and only on a platform without coherence. -/
theorem State.markWritten_host (s : State) (r : Region) :
    (s.markWritten r).host =
      { s.host with stale := if s.platform.coherent || decide (r.size = 0) then s.host.stale else r :: s.host.stale } := by
  unfold State.markWritten; split <;> simp_all

@[simp] theorem State.markWritten_borrows (s : State) (r : Region) :
    (s.markWritten r).host.borrows = s.host.borrows := by
  rw [State.markWritten_host]

@[simp] theorem State.markDirty_borrows (s : State) (bytes : List Nat) :
    (s.markDirty bytes).host.borrows = s.host.borrows := by
  unfold State.markDirty; split <;> rfl

end Sys2Proof.Machine
end

