-- ==== Sys2Proof/Laws/Ops.lean ====
section
/-! SUPPORT. What each shared operation can do, said once: running a command, ending it, raising an error, reset, validation, START, and
the host's accesses. The proofs cite these instead of unfolding the operations. -/

namespace Sys2Proof.Machine

/-! ### Validation -/

/-- What an accepted command has passed (rule R261). -/
theorem validate_accept {p : Params} {i : Instr} (h : validate p = .accept i) :
    decodeCommand p.cmd = .instr i ∧ p.width.toNat ≤ Config.maxDim ∧ p.height.toNat ≤ Config.maxDim ∧
      brightTooBig i p = false ∧ misaligned i p = none ∧ outOfRange i p = none ∧
      (inPlace i = false → (readRange i p).overlaps (writeRange i p) = false) := by
  unfold validate at h
  split at h
  · cases h
  · rename_i j hj
    split at h
    · cases h
    · rename_i hd
      split at h
      · cases h
      · rename_i hb
        split at h
        · cases h
        · rename_i hm
          split at h
          · cases h
          · rename_i hr
            split at h
            · cases h
            · rename_i ho
              cases h
              simp_all

/-- A rejection never carries code 0, and codes 1 and 2 carry the address 0 (rule R263). -/
theorem validate_reject {p : Params} {code : ErrCode} {addr : Word} (h : validate p = .reject code addr) :
    code ≠ .none ∧ (code.toNat ≤ 2 → addr = 0#32) := by
  unfold validate at h
  repeat' split at h
  all_goals cases h
  all_goals simp [ErrCode.toNat]

/-- The pixel count of a command within MAX_DIM fits a register (rule R73). -/
theorem pixels_lt {p : Params} (hw : p.width.toNat ≤ Config.maxDim) (hh : p.height.toNat ≤ Config.maxDim) :
    pixels p < 2 ^ 32 := by
  have : pixels p ≤ Config.maxDim * Config.maxDim := Nat.mul_le_mul hw hh
  simp only [Config.maxDim] at this
  omega

theorem elements_lt {i : Instr} {p : Params} (hw : p.width.toNat ≤ Config.maxDim) (hh : p.height.toNat ≤ Config.maxDim) :
    elements i p < 2 ^ 32 := by
  have := pixels_lt hw hh
  cases i <;> simp only [elements, packedBytes] <;> omega

/-! ### Ending a command -/

theorem complete_markWritten_progress (i : Instr) (s : State) (r : Region) :
    ((complete i s).markWritten r).progress = BitVec.ofNat 32 (elements i s.lat) := by simp

/-- The free PROGRESS is within its bounds (rule R30). -/
theorem freeProgress_bounds (k n : Nat) (now : Word) (h : now.toNat ≤ n) (hn : n < 2 ^ 32) :
    now.toNat ≤ (freeProgress k n now).toNat ∧ (freeProgress k n now).toNat ≤ n := by
  unfold freeProgress freeBelow
  have := Nat.mod_lt (Config.freeNat k) (show 0 < n - now.toNat + 1 by omega)
  rw [BitVec.toNat_ofNat, Nat.mod_eq_of_lt (by omega)]
  omega

section busError
variable (i : Instr) (failing : List Nat) (s : State)

@[simp] theorem busError_irqEn : (busError i failing s).irqEn = s.irqEn := by simp [busError]

@[simp] theorem busError_status :
    (busError i failing s).status = { s.status with err := true, errCode := .bus } := by simp [busError]

@[simp] theorem busError_regs : (busError i failing s).regs = s.regs := by simp [busError]

@[simp] theorem busError_progress :
    (busError i failing s).progress = freeProgress (s.freeCount + 1) (elements i s.lat) s.progress := by
  simp [busError]

@[simp] theorem busError_errAddr :
    (busError i failing s).errAddr =
      BitVec.ofNat 32 (failing.getD (freeBelow s.freeCount failing.length) 0) := by simp [busError]

@[simp] theorem busError_lat : (busError i failing s).lat = freeLatches (s.freeCount + 2) := by simp [busError]

@[simp] theorem busError_phase : (busError i failing s).phase = .idle := by simp [busError]

@[simp] theorem busError_mem :
    (busError i failing s).mem = s.mem.scramble s.freeCount (writeRange i s.lat) := by simp [busError]

@[simp] theorem busError_platform : (busError i failing s).platform = s.platform := by simp [busError]

@[simp] theorem busError_others : (busError i failing s).others = s.others := by simp [busError]

@[simp] theorem busError_pending : (busError i failing s).pending = s.pending := by simp [busError]

@[simp] theorem busError_freeCount : (busError i failing s).freeCount = s.freeCount + 3 := by simp [busError]

end busError

/-- The address that ERR_BUS records is one of the failing addresses (rules R263, S5). -/
theorem getD_freeBelow_mem (k : Nat) (failing : List Nat) (h : failing ≠ []) :
    failing.getD (freeBelow k failing.length) 0 ∈ failing := by
  have hpos : 0 < failing.length := List.length_pos_iff.2 h
  have hlt : freeBelow k failing.length < failing.length := Nat.mod_lt _ hpos
  rw [List.getD_eq_getElem?_getD, List.getElem?_eq_getElem hlt]
  exact List.getElem_mem hlt

/-- A command in IDLE does nothing (rule R278). -/
theorem runCommand_idle (i : Instr) (body : Memory → Memory) {s : State} (h : s.phase = .idle) :
    runCommand i body s = .next s := by
  simp [runCommand, h]

/-- A running command without failing accesses completes (rule R235). -/
theorem runCommand_completes (i : Instr) (body : Memory → Memory) {s : State} (h : s.phase = .run)
    (hb : busFailures s.platform i s.lat = []) :
    runCommand i body s = .next ((complete i (s.setMem (body s.mem))).markWritten (writeRange i s.lat)).forgetLatches := by
  simp [runCommand, h, hb]

/-- A running command with a failing access ends with ERR_BUS (rule R265). -/
theorem runCommand_fails (i : Instr) (body : Memory → Memory) {s : State} (h : s.phase = .run)
    (hb : busFailures s.platform i s.lat ≠ []) :
    runCommand i body s = .next (busError i (busFailures s.platform i s.lat) s) := by
  unfold runCommand
  rw [h]
  cases hf : busFailures s.platform i s.lat with
  | nil => exact absurd hf hb
  | cons a rest => rfl

/-- All that running a command can do. -/
theorem runCommand_cases {i : Instr} {body : Memory → Memory} {s t : State} (h : runCommand i body s = .next t) :
    (s.phase = .idle ∧ t = s) ∨
    (s.phase = .run ∧ busFailures s.platform i s.lat = [] ∧
      t = ((complete i (s.setMem (body s.mem))).markWritten (writeRange i s.lat)).forgetLatches) ∨
    (s.phase = .run ∧ busFailures s.platform i s.lat ≠ [] ∧ t = busError i (busFailures s.platform i s.lat) s) := by
  cases hp : s.phase with
  | idle =>
    rw [runCommand_idle i body hp] at h
    cases h
    exact .inl ⟨rfl, rfl⟩
  | run =>
    by_cases hb : busFailures s.platform i s.lat = []
    · rw [runCommand_completes i body hp hb] at h
      cases h
      exact .inr (.inl ⟨rfl, hb, rfl⟩)
    · rw [runCommand_fails i body hp hb] at h
      cases h
      exact .inr (.inr ⟨rfl, hb, rfl⟩)

/-! ### The commands as one -/

/-- The pseudocode of a command as a change of memory; the identity for a control operation. -/
def commandMemory (i : Instr) (p : Params) : Memory → Memory :=
  match i with
  | .gray aaw => grayMemory aaw p
  | .thresh => threshMemory p
  | .diffuse => diffuseMemory p
  | .halftone => halftoneMemory p
  | .pack => packMemory p
  | .rotate => rotateMemory p
  | .start _ => id
  | .startBusy _ => id
  | .srst => id
  | .clear _ _ _ => id

/-- Every command runs its pseudocode the one way (rules R79, R234). -/
theorem exec_command {i : Instr} (h : Request.isCommand i = true) (s : State) :
    exec i s = runCommand i (commandMemory i s.lat) s := by
  cases i <;> first | rfl | cases h

/-- The pseudocode of every command keeps the canonical form. -/
theorem commandMemory_wf (i : Instr) (p : Params) (m : Memory) (h : m.wf = true) : (commandMemory i p m).wf = true := by
  cases i with
  | gray aaw => exact grayMemory_wf aaw p m h
  | thresh => exact threshMemory_wf p m h
  | diffuse => exact diffuseMemory_wf p m h
  | halftone => exact halftoneMemory_wf p m h
  | pack => exact packMemory_wf p m h
  | rotate => exact rotateMemory_wf p m h
  | start _ => exact h
  | startBusy _ => exact h
  | srst => exact h
  | clear _ _ _ => exact h

/-- The pseudocode of every command leaves the bytes outside its write range (rule R67). -/
theorem commandMemory_other (i : Instr) (p : Params) (m : Memory) (a : Nat) (h : (writeRange i p).has a = false) :
    (commandMemory i p m).read a = m.read a := by
  cases i with
  | gray aaw => exact grayMemory_other aaw p m a h
  | thresh => exact threshMemory_other p m a h
  | diffuse => exact diffuseMemory_other p m a h
  | halftone => exact halftoneMemory_other p m a h
  | pack => exact packMemory_other p m a h
  | rotate => exact rotateMemory_other p m a h
  | start _ => rfl
  | startBusy _ => rfl
  | srst => rfl
  | clear _ _ _ => rfl

/-! ### Reset -/

section deviceReset
variable (s : State)

@[simp] theorem deviceReset_irqEn : (deviceReset s).irqEn = false := by simp [deviceReset]

@[simp] theorem deviceReset_status : (deviceReset s).status = Status.reset := by simp [deviceReset]

@[simp] theorem deviceReset_regs : (deviceReset s).regs = Params.reset := by simp [deviceReset]

@[simp] theorem deviceReset_progress : (deviceReset s).progress = 0#32 := by simp [deviceReset]

@[simp] theorem deviceReset_errAddr : (deviceReset s).errAddr = 0#32 := by simp [deviceReset]

@[simp] theorem deviceReset_lat : (deviceReset s).lat = freeLatches s.freeCount := by simp [deviceReset]

@[simp] theorem deviceReset_phase : (deviceReset s).phase = .idle := by simp [deviceReset]

@[simp] theorem deviceReset_mem : (deviceReset s).mem = s.mem.scramble s.freeCount (abortedRange s) := by
  simp [deviceReset]

@[simp] theorem deviceReset_platform : (deviceReset s).platform = s.platform := by simp [deviceReset]

@[simp] theorem deviceReset_others : (deviceReset s).others = s.others := by simp [deviceReset]

@[simp] theorem deviceReset_pending : (deviceReset s).pending = s.pending := by simp [deviceReset]

@[simp] theorem deviceReset_freeCount : (deviceReset s).freeCount = s.freeCount + 1 := by simp [deviceReset]

end deviceReset

/-- In IDLE a reset aborts nothing (rule R291). -/
theorem abortedRange_idle {s : State} (h : s.phase = .idle) : abortedRange s = Region.empty := by
  simp [abortedRange, h]

/-! ### START -/

/-- All that a taken START can do (rules R231, R264, R305). -/
theorem startAccepted_cases (irqEn : Bool) (s : State) :
    (∃ code addr, validate s.regs = .reject code addr ∧
      startAccepted irqEn s =
        .next ((((s.setIrqEn irqEn).latchOperands).clearOutcome).raiseError code addr)) ∨
    (∃ i why, validate s.regs = .accept i ∧ startHazard s (claimOf i s.regs) = some why ∧
      startAccepted irqEn s = .fault (.hostHazard why)) ∨
    (∃ i, validate s.regs = .accept i ∧ startHazard s (claimOf i s.regs) = none ∧
      startAccepted irqEn s =
        .next ((((s.setIrqEn irqEn).latchOperands).clearOutcome).enterRun (claimOf i s.regs))) := by
  have hlat : (((s.setIrqEn irqEn).latchOperands).clearOutcome).lat = s.regs := rfl
  have hhaz : ∀ c, startHazard (((s.setIrqEn irqEn).latchOperands).clearOutcome) c = startHazard s c := fun _ => rfl
  unfold startAccepted
  simp only [hlat, hhaz]
  cases hv : validate s.regs with
  | reject code addr => exact .inl ⟨code, addr, rfl, rfl⟩
  | accept i =>
    cases hh : startHazard s (claimOf i s.regs) with
    | some why => exact .inr (.inl ⟨i, why, rfl, hh, by simp [hh]⟩)
    | none => exact .inr (.inr ⟨i, rfl, hh, by simp [hh]⟩)

/-- START in IDLE is taken (rule R231). -/
theorem execStart_idle (irqEn : Bool) {s : State} (h : s.phase = .idle) :
    exec (.start irqEn) s = startAccepted irqEn s := by
  change execStart irqEn s = _
  simp [execStart, h]

/-- START in RUN is dropped (rule R236). -/
theorem execStart_run (irqEn : Bool) {s : State} (h : s.phase = .run) :
    exec (.start irqEn) s = .next (startDropped irqEn s) := by
  change execStart irqEn s = _
  simp [execStart, h]

theorem execStartBusy_eq (irqEn : Bool) (s : State) : exec (.startBusy irqEn) s = exec (.start irqEn) s := by
  change execStartBusy irqEn s = execStart irqEn s
  unfold execStartBusy execStart
  cases s.phase <;> rfl

/-! ### The host's accesses -/

/-- All that another instance's start can do: a command that shares a written byte with a running one is HostHazard, any
other is recorded (rule R303). -/
theorem otherStarts_cases (c : Claim) (s : State) :
    ((∃ d ∈ runningClaims s, c.conflicts d = true) ∧ otherStarts c s = .fault (.hostHazard .sharing)) ∨
      ((∀ d ∈ runningClaims s, c.conflicts d = false) ∧ otherStarts c s = .next (s.setOthers (c :: s.others))) := by
  unfold otherStarts
  split
  · rename_i h
    exact .inl ⟨List.any_eq_true.1 h, rfl⟩
  · rename_i h
    exact .inr ⟨by simpa using h, rfl⟩

/-- The running commands are the device's own and the other instances'. -/
theorem mem_runningClaims (s : State) (d : Claim) : d ∈ runningClaims s ↔ runningClaim s = some d ∨ d ∈ s.others := by
  simp [runningClaims]

/-- A lent address lies in a range of a command of this device or of another instance (rules R276, R294). -/
theorem lent_iff (s : State) (a : Nat) :
    s.lent a = true ↔ ∃ c, (c ∈ s.host.borrows ∨ c ∈ s.others) ∧ (c.reads.has a = true ∨ c.writes.has a = true) := by
  simp [State.lent, State.lentClaims, or_and_right, exists_or]

/-- The same for the write ranges (rules R78, R295). -/
theorem lentForWriting_iff (s : State) (a : Nat) :
    s.lentForWriting a = true ↔ ∃ c, (c ∈ s.host.borrows ∨ c ∈ s.others) ∧ c.writes.has a = true := by
  simp [State.lentForWriting, State.lentClaims, or_and_right, exists_or]

/-- A read of memory either faults or records the bytes and draws a free value. -/
theorem loadMemory_cases {bytes : List Nat} {s t : State} (h : loadMemory bytes s = .next t) :
    t = (s.returned (littleEndian (bytes.map (hostByte s)))).draw 1 := by
  unfold loadMemory at h
  split at h
  · cases h
  · cases h; rfl

/-- A write of memory either faults or stores its bytes, none of them lent. -/
theorem storeMemory_cases {bytes : List Nat} {v : Word} {s t : State} (h : storeMemory bytes v s = .next t) :
    bytes.any (fun a => s.lent a) = false ∧ t = (s.setMem (storeBytes s.mem bytes v)).markDirty bytes := by
  unfold storeMemory at h
  split at h
  · cases h
  · rename_i hl
    cases h
    exact ⟨by simpa using hl, rfl⟩

/-- A register write is a control operation, a new IRQ_EN, a new operand register, or nothing (rule R230). -/
theorem writeOffset_cases (offset : Nat) (v : Word) (s : State) :
    (offset = 4 ∧ ∃ i, decodeCtrl s.busy v = .instr i ∧ writeOffset offset v s = exec i s) ∨
    (offset = 4 ∧ writeOffset offset v s = .next (s.setIrqEn (v.getLsbD 2))) ∨
    (offset = 8 ∧
      writeOffset offset v s = exec (.clear (v.getLsbD 1) (v.getLsbD 2) (v.getLsbD 3)) s) ∨
    (∃ p, writeOffset offset v s = .next (s.setRegs p)) ∨ writeOffset offset v s = .next s := by
  by_cases h4 : offset = 4
  · subst h4
    cases hd : decodeCtrl s.busy v with
    | instr i => exact .inl ⟨rfl, i, rfl, by simp [writeOffset, regAt, writeCtrl, hd]⟩
    | reject why => exact .inr (.inl ⟨rfl, by simp [writeOffset, regAt, writeCtrl, hd]⟩)
  by_cases h8 : offset = 8
  · subst h8
    exact .inr (.inr (.inl ⟨rfl, by simp [writeOffset, regAt, writeStatus, decodeStatus]⟩))
  refine .inr (.inr (.inr ?_))
  unfold writeOffset
  split <;> first
    | exact .inl ⟨_, rfl⟩
    | exact .inr rfl
    | (rename_i h; exfalso; unfold regAt at h; split at h <;> simp_all)

/-- A register read changes only the record of the host. -/
theorem loadRegister_cases (offset : Nat) (s : State) :
    (loadRegister offset s = s.returned (readOffset offset s)) ∨
      (s.busy = false ∧ loadRegister offset s = (s.returned (readOffset offset s)).endSeen) := by
  unfold loadRegister
  simp only
  split
  · rename_i h
    simp only [Bool.and_eq_true, Bool.not_eq_true'] at h
    exact .inr ⟨h.2, rfl⟩
  · exact .inl rfl

theorem busy_eq_false {s : State} : s.busy = false ↔ s.phase = .idle := by
  unfold State.busy; cases s.phase <;> simp

theorem busy_eq_true {s : State} : s.busy = true ↔ s.phase = .run := by
  unfold State.busy; cases s.phase <;> simp

/-! ### The step -/

/-- A step with nothing pending is the engine's turn. -/
theorem step_nil {s : State} (h : s.pending = []) : step s = engineFinish s := by
  simp [step, turn, h]

/-- A step with an event pending delivers it. -/
theorem step_cons {s : State} {e : Event} {rest : List Event} (h : s.pending = e :: rest) :
    step s = deliver e (s.setPending rest) := by
  simp [step, turn, h]

/-- The engine's turn runs the latched command (rule R234). -/
theorem engineFinish_run {s : State} {i : Instr} (h : s.phase = .run) (hd : decodeCommand s.lat.cmd = .instr i) :
    engineFinish s = exec i s := by
  simp [engineFinish, h, hd]

/-- The latched word decodes only to commands (rule R96). -/
theorem decodeCommand_isCommand {c : Word} {i : Instr} (h : decodeCommand c = .instr i) :
    Request.isCommand i = true := by
  unfold decodeCommand at h
  repeat' split at h
  all_goals cases h
  all_goals rfl

end Sys2Proof.Machine
end

