-- ==== Sys2Proof/Laws/PerInstr.lean ====
section
/-! SUPPORT. Statements made per instruction: the encoder's word, presented at the instruction's own place, decodes to the
instruction. -/

namespace Sys2Proof.Laws

/-- The instruction is what the decoder reads from its encoder's word, at the place where that word belongs. -/
def RoundTrip.Statement (i : Instr) : Prop := decodeAt (portOf i) (encode i) = .instr i

theorem RoundTrip.gray (aaw : Bool) : RoundTrip.Statement (.gray aaw) := by
  cases aaw <;> (unfold RoundTrip.Statement; decide)

theorem RoundTrip.thresh : RoundTrip.Statement .thresh := by unfold RoundTrip.Statement; decide

theorem RoundTrip.diffuse : RoundTrip.Statement .diffuse := by unfold RoundTrip.Statement; decide

theorem RoundTrip.halftone : RoundTrip.Statement .halftone := by unfold RoundTrip.Statement; decide

theorem RoundTrip.pack : RoundTrip.Statement .pack := by unfold RoundTrip.Statement; decide

theorem RoundTrip.rotate : RoundTrip.Statement .rotate := by unfold RoundTrip.Statement; decide

theorem RoundTrip.start (irqEn : Bool) : RoundTrip.Statement (.start irqEn) := by
  cases irqEn <;> (unfold RoundTrip.Statement; decide)

theorem RoundTrip.startBusy (irqEn : Bool) : RoundTrip.Statement (.startBusy irqEn) := by
  cases irqEn <;> (unfold RoundTrip.Statement; decide)

theorem RoundTrip.srst : RoundTrip.Statement .srst := by unfold RoundTrip.Statement; decide

theorem RoundTrip.clear (done err ign : Bool) : RoundTrip.Statement (.clear done err ign) := by
  cases done <;> cases err <;> cases ign <;> (unfold RoundTrip.Statement; decide)

end Sys2Proof.Laws
end

