-- ==== Sys2Proof/Tests/Slice0.lean ====
section
/-! SUPPORT. The model's own tests: words written out from the spec's encodings, one ill-formed request per check, vectors of
95_test_vectors.md and of the rules' examples, and for every obligation with hypotheses a state that meets them. -/

namespace Sys2Proof.Tests

open Sys2Proof.Machine

-- One test after the other: checked all at once they wait for each other on threads whose stacks are counted as memory.
set_option Elab.async false

/-! ### Builders -/

/-- Operands, written as numbers: command word, width, height, BRIGHT, source, destination. -/
def operands (cmd w h bright src dst : Nat) : Params where
  cmd := BitVec.ofNat 32 cmd
  width := BitVec.ofNat 32 w
  height := BitVec.ofNat 32 h
  bright := BitVec.ofNat 32 bright
  src := BitVec.ofNat 32 src
  dst := BitVec.ofNat 32 dst

/-- `mem8 base = [...]` of rule R98. -/
def fill (base : Nat) : List Nat → Memory
  | [] => []
  | b :: rest => Memory.write (fill (base + 1) rest) base (BitVec.ofNat 8 b)

/-- Reset, with operands and memory set up. -/
def ready (p : Params) (m : Memory) : State := { State.reset with regs := p, mem := m }

/-- The same, with the command of `p` started. -/
def started (i : Instr) (p : Params) (m : Memory) : State :=
  { State.reset with regs := p, lat := p, mem := m, phase := .run, host := { HostView.fresh with borrows := [claimOf i p] } }

/-- A started command, with an event to come. -/
def startedWith (e : Event) : State := { started .thresh (operands 2 2 1 85 4096 0) [] with pending := [e] }

/-- Reset, with an event to come. -/
def readyWith (e : Event) : State := { State.reset with pending := [e] }

/-- The next state, if there is one. -/
def after : Host.Outcome State Fault Refusal → Option State
  | .next s => some s
  | .fault _ => none
  | .refused _ => none

/-- The fault, if there is one. -/
def faultOf : Host.Outcome State Fault Refusal → Option Fault
  | .next _ => none
  | .fault f => some f
  | .refused _ => none

/-- `n` bytes of the next state's memory. -/
def bytesAfter (o : Host.Outcome State Fault Refusal) (base n : Nat) : Option (List Nat) :=
  (after o).map fun s => (List.range n).map fun k => (Memory.read s.mem (base + k)).toNat

/-- STATUS and ERR_ADDR of the next state. -/
def statusAfter (o : Host.Outcome State Fault Refusal) : Option (Word × Word) :=
  (after o).map fun s => (statusWord s, s.errAddr)

/-! ### Decoding: words written out from 30_encoding.md rules R90 to R99 and from 46_control.md -/

theorem test_decode_gray : decodeTableWord 32 0b00000000000000000000000000000001 = some (.gray false) := by decide

theorem test_decode_gray_aw : decodeTableWord 32 0b00000000000000000000000100000001 = some (.gray true) := by decide

theorem test_decode_thresh : decodeTableWord 32 0b00000000000000000000000000000010 = some .thresh := by decide

theorem test_decode_diffuse : decodeTableWord 32 0b00000000000000000000000000000011 = some .diffuse := by decide

theorem test_decode_halftone : decodeTableWord 32 0b00000000000000000000000000000100 = some .halftone := by decide

theorem test_decode_pack : decodeTableWord 32 0b00000000000000000000000100000101 = some .pack := by decide

theorem test_decode_rotate : decodeTableWord 32 0b00000000000000000000000000000110 = some .rotate := by decide

theorem test_decode_start : decodeAt (.ctrl false) 0b00000000000000000000000000000101#32 = .instr (.start true) := by decide

theorem test_decode_start_busy :
    decodeAt (.ctrl true) 0b00000000000000000000000000000001#32 = .instr (.startBusy false) := by decide

theorem test_decode_srst : decodeAt (.ctrl true) 0b00000000000000000000000000000111#32 = .instr .srst := by decide

theorem test_decode_clear :
    decodeAt .status 0b00000000000000000000000000000100#32 = .instr (.clear false true false) := by decide

theorem test_decode_rejects :
    decodeCommand 0#32 = .reject .reservedOp ∧ decodeCommand 7#32 = .reject .reservedOp ∧
      decodeCommand 0x11#32 = .reject .reservedBits ∧ decodeCommand 0x201#32 = .reject .reservedBits ∧
      decodeCtrl false 4#32 = .reject .plainCtrlWrite ∧ decodeBytes .cmd [1#8] = .reject .notOneWord := by decide

/-! ### Well-formedness: one ill-formed request per check -/

theorem test_wf_accepts : Request.wf (.gray false) (operands 1 4 1 85 0x1000 0x1010) = true := by decide

theorem test_wf_not_a_command : Request.isCommand .srst = false ∧ Request.wf .srst (operands 1 1 1 85 0 0) = false := by decide

theorem test_wf_dims : Request.dimsOk (operands 2 65536 1 85 0x1000 0) = false := by decide

theorem test_wf_bright : Request.brightOk (.gray false) (operands 1 1 1 256 0x1000 0x2000) = false := by decide

theorem test_wf_aligned : Request.aligned .rotate (operands 6 1 1 85 0x1000 0x2001) = false := by decide

theorem test_wf_in_range :
    Request.inRange .thresh (operands 2 16 2 85 0xFFFFFFF0 0) = false ∧
      Request.inRange .thresh (operands 2 16 1 85 0xFFFFFFF0 0) = true := by decide

theorem test_wf_disjoint :
    Request.disjoint (.gray false) (operands 1 4 1 85 0x1000 0x100C) = false ∧
      Request.disjoint .pack (operands 5 8 1 85 0x3000 0x3000) = false := by decide

/-! ### Vectors (95_test_vectors.md sections 2.1 to 2.8, and the rules' own examples) -/

/-- G5, G6, G20, G22, G24 and G26: alpha, ties, binary64 rounding and the clamp. -/
theorem test_gray_pixels :
    (grayPixel 200#8 100#8 50#8 128#8 128 false).toNat = 59 ∧ (grayPixel 200#8 100#8 50#8 128#8 128 true).toNat = 186 ∧
      (grayPixel 200#8 0#8 0#8 3#8 128 false).toNat = 0 ∧ (grayPixel 0#8 40#8 40#8 255#8 128 false).toNat = 32 ∧
      (grayPixel 5#8 45#8 45#8 255#8 128 false).toNat = 37 ∧ (grayPixel 0#8 0#8 1#8 255#8 0 false).toNat = 0 := by
  decide +kernel

/-- P6's second command on its last two pixels: [37, 255]. -/
theorem test_gray_run :
    bytesAfter
        (exec (.gray false)
          (started (.gray false) (operands 1 2 1 128 0x1000 0x1010) (fill 0x1000 [5, 45, 45, 255, 255, 255, 255, 255])))
        0x1010 2 = some [37, 255] := by
  decide +kernel

/-- T1. -/
theorem test_thresh_run :
    bytesAfter
        (exec .thresh (started .thresh (operands 2 6 1 85 0x1000 0) (fill 0x1000 [0, 127, 128, 129, 200, 255]))) 0x1000 6 =
      some [0, 0, 0, 255, 255, 255] := by
  decide +kernel

/-- D2, with its ties. -/
theorem test_diffuse_run :
    bytesAfter (exec .diffuse (started .diffuse (operands 3 2 2 85 0x1000 0) (fill 0x1000 [8, 100, 0, 101]))) 0x1000 4 =
      some [0, 0, 0, 255] := by
  decide +kernel

/-- D4, with a clamped store. -/
theorem test_diffuse_clamps :
    bytesAfter
        (exec .diffuse (started .diffuse (operands 3 3 2 85 0x1000 0) (fill 0x1000 [200, 60, 128, 129, 10, 250]))) 0x1000 6 =
      some [255, 0, 255, 0, 0, 255] := by
  decide +kernel

/-- H3: block sum 2550, the first one with a small dot. -/
theorem test_halftone_run :
    bytesAfter
        (exec .halftone
          (started .halftone (operands 4 4 4 85 0x1000 0)
            (fill 0x1000 [159, 159, 159, 159, 159, 159, 159, 159, 159, 159, 159, 159, 159, 159, 159, 165])))
        0x1000 16 =
      some [255, 255, 255, 255, 255, 0, 0, 255, 255, 0, 0, 255, 255, 255, 255, 255] := by
  decide +kernel

/-- H9 on a 5x5 image: the row and the column outside the block become white. -/
theorem test_halftone_remainder :
    bytesAfter (exec .halftone (started .halftone (operands 4 5 5 85 0x1000 0) [])) 0x1000 25 =
      some [0, 0, 0, 0, 255, 0, 0, 0, 0, 255, 0, 0, 0, 0, 255, 0, 0, 0, 0, 255, 255, 255, 255, 255, 255] := by
  decide +kernel

/-- P6: a non-binary input. -/
theorem test_pack_run :
    bytesAfter
        (exec .pack (started .pack (operands 5 8 1 85 0x1000 0x2000) (fill 0x1000 [0, 1, 128, 254, 255, 0, 0, 7]))) 0x2000 1 =
      some [0x79] := by
  decide +kernel

/-- P3: padding. -/
theorem test_pack_padding :
    bytesAfter (exec .pack (started .pack (operands 5 10 1 85 0x1000 0x2000) [])) 0x2000 2 = some [0x00, 0x3F] := by
  decide +kernel

/-- R1 on pixels a = (1,1,1,1) to f = (6,6,6,6), by their first bytes: [d,a,e,b,f,c]. -/
theorem test_rotate_run :
    (after
        (exec .rotate
          (started .rotate (operands 6 3 2 85 0x1000 0x2000)
            (fill 0x1000 [1, 1, 1, 1, 2, 2, 2, 2, 3, 3, 3, 3, 4, 4, 4, 4, 5, 5, 5, 5, 6, 6, 6, 6])))).map
        (fun s => (List.range 6).map fun k => (Memory.read s.mem (0x2000 + 4 * k)).toNat) =
      some [4, 1, 5, 2, 6, 3] := by
  decide +kernel

/-- R7: the bytes of a pixel keep their order. -/
theorem test_rotate_bytes :
    bytesAfter
        (exec .rotate (started .rotate (operands 6 1 2 85 0x1000 0x2000) (fill 0x1000 [1, 2, 3, 4, 5, 6, 7, 8]))) 0x2000 8 =
      some [5, 6, 7, 8, 1, 2, 3, 4] := by
  decide +kernel

/-- X11, X14 and X16: STATUS and ERR_ADDR of rejected commands. -/
theorem test_start_rejects :
    statusAfter (exec (.start false) (ready (operands 1 4 1 85 0x1000 0x100C) [])) = some (0x504#32, 0x100C#32) ∧
      statusAfter (exec (.start false) (ready (operands 7 70000 1 300 0x1003 0x1003) [])) = some (0x104#32, 0#32) ∧
      statusAfter (exec (.start false) (ready (operands 1 0 7 85 0x1002 0x2000) [])) = some (0x304#32, 0x1002#32) := by
  decide +kernel

/-- The example of rule R231: BUSY = 1. -/
theorem test_start_accepts :
    statusAfter (exec (.start true) (ready (operands 2 4 4 85 0x1000 0) [])) = some (1#32, 0#32) := by decide +kernel

/-- K5: IGN is set and IRQ_EN cleared; the command runs on. -/
theorem test_start_busy :
    (after (exec (.startBusy false) { started .thresh (operands 2 2 1 85 0x1000 0) [] with irqEn := true })).map
        (fun s => (statusWord s, s.irqEn)) = some (9#32, false) := by
  decide +kernel

/-- K6 and K7: registers at their reset values. -/
theorem test_srst :
    (after (exec .srst (started .thresh (operands 2 2 1 9 0x1000 0) []))).map
        (fun s => (statusWord s, ctrlWord s, s.regs)) = some (0#32, 0#32, operands 0 0 0 85 0 0) := by
  decide +kernel

/-- The example of rule R238: 0x504 becomes 0x500. -/
theorem test_clear :
    (after
        (exec (.clear false true false)
          { State.reset with status := { done := false, err := true, ign := false, errCode := .overlap } })).map statusWord =
      some 0x500#32 := by
  decide +kernel

/-- Rules R40 and R293: START straight after reset is rejected with ERR_ILLEGAL. -/
theorem test_start_after_reset : statusAfter (exec (.start false) State.reset) = some (0x104#32, 0#32) := by decide +kernel

/-- K9 and K10: ID, and a reserved offset. -/
theorem test_window :
    (after (step (readyWith (rd Platform.plain .id)))).map (fun s => s.host.lastRead) = some (some 0x47524D01#32) ∧
      (after (step (readyWith (.host (.store 0x80000040#32 .word 0xFFFFFFFF#32))))).map (readOffset 0x40) = some 0#32 := by
  decide +kernel

/-- Rule R11: the weights' hex values. -/
theorem test_weights :
    weightR = { man := 0x1b333333333333, exp := -55 } ∧ weightG = { man := 0x16e48e8a71de6a, exp := -53 } ∧
      weightB = { man := 0x127525460aa64c, exp := -56 } := by
  decide +kernel

/-- A table row's word is what the next step runs. -/
theorem test_with_fetch_word :
    (after (step (State.reset.withFetchWord 32 0x00000006))).map statusWord = some 2#32 ∧
      (after (step (State.reset.withFetchWord 32 0x00000009))).map statusWord = some 0x104#32 := by
  decide +kernel

/-! ### Witnesses: for every obligation with hypotheses, a state that meets them -/

/-- A running THRESH of two bytes, and of other commands, about to complete. -/
theorem witness_runs :
    Runs (.gray true) (started (.gray true) (operands 0x101 1 1 85 0x1000 0x2000) []) ∧
      Runs .thresh (started .thresh (operands 2 2 1 85 0x1000 0) (fill 0x1000 [0, 255])) ∧
      Runs .diffuse (started .diffuse (operands 3 2 1 85 0x1000 0) (fill 0x1000 [0, 255])) ∧
      Runs .halftone (started .halftone (operands 4 5 4 85 0x1000 0) []) ∧
      Runs .pack (started .pack (operands 5 3 1 85 0x1000 0x2000) (fill 0x1000 [0, 255])) ∧
      Runs .rotate (started .rotate (operands 6 2 1 85 0x1000 0x2000) []) := by
  unfold Runs
  decide +kernel

/-- For BusErrorEndsTheCommand: a THRESH whose second byte may not be written. -/
theorem witness_bus_error :
    RunsIntoBusError .thresh
      { started .thresh (operands 2 2 1 85 0x1000 0) [] with
        platform := { Platform.plain with noWrite := [{ base := 0x1001, size := 1 }] } } := by
  unfold RunsIntoBusError
  decide +kernel

/-- For ThreshAndDiffuseKeepBinaryBuffers and UnpackRebuildsTheInput. -/
theorem witness_binary_buffer : BinaryBuffer (fill 0x1000 [0, 255]) 0x1000 2 := by unfold BinaryBuffer; decide +kernel

/-- For the invariants and EveryCommandEnds: running states with the invariant, the engine's turn next in each way, and a next
state. -/
theorem witness_invariant :
    (started .thresh (operands 2 2 1 85 0x1000 0) []).inv = true ∧ (startedWith .finish).inv = true ∧
      (startedWith .finish).pending = [.finish] ∧
      (after (step (started .thresh (operands 2 2 1 85 0x1000 0) []))).isSome = true := by
  decide +kernel

/-- For OnlyTheseEventsLeaveRun: each of its four ways out. -/
theorem witness_leave_run :
    (after (step (started .thresh (operands 2 2 1 85 0x1000 0) []))).map State.busy = some false ∧
      (after (step (startedWith .finish))).map State.busy = some false ∧
      (after (step (startedWith .powerReset))).map State.busy = some false ∧
      (after (step (startedWith (.host (.store 0x80000004#32 .word 2#32))))).map State.busy = some false := by
  decide +kernel

/-- For IdleDeviceChangesNoMemory: an idle state whose next event is a START. -/
theorem witness_idle :
    (readyWith (wr Platform.plain .ctrl 1#32)).phase = .idle ∧
      reachesWindow Platform.plain 0x80000004#32 .word = true ∧
      (after (step (readyWith (wr Platform.plain .ctrl 1#32)))).isSome = true := by
  decide +kernel

/-- For IdleEngineDoesNothing. -/
theorem witness_idle_engine : State.reset.phase = .idle ∧ State.reset.pending = [] := by decide

/-- For CommandsReadOnlyTheirRange: a memory that differs outside the read range only. -/
theorem witness_read_range :
    (∀ a, (readRange .thresh (operands 2 2 1 85 0x1000 0)).has a = true →
      Memory.read (fill 0x1000 [0, 255, 7]) a = Memory.read (fill 0x1000 [0, 255]) a) := by
  intro a h
  have hr : readRange .thresh (operands 2 2 1 85 0x1000 0) = { base := 0x1000, size := 2 } := by decide
  have : a = 0x1000 ∨ a = 0x1001 := by
    rw [hr] at h
    simp [Region.has] at h
    omega
  rcases this with rfl | rfl <;> decide +kernel

/-- For EmptyCommandCompletes: each zero dimension. -/
theorem witness_empty :
    (operands 1 0 7 85 0 0).width = 0#32 ∧ (operands 1 7 0 85 0 0).height = 0#32 ∧
      (started (.gray false) (operands 1 0 7 85 0 0) []).phase = .run := by decide

/-- For IgnoredOperandsChangeNothing. -/
theorem witness_ignored_operands :
    decodeCommand (operands 2 2 1 85 0x1000 0).cmd = .instr .thresh ∧
      decodeCommand (operands 3 2 1 85 0x1000 0).cmd = .instr .diffuse ∧
      decodeCommand (operands 4 2 1 85 0x1000 0).cmd = .instr .halftone ∧
      decodeCommand (operands 5 2 1 85 0x1000 0x2000).cmd = .instr .pack ∧
      decodeCommand (operands 6 2 1 85 0x1000 0x2000).cmd = .instr .rotate ∧
      (after (exec .thresh (started .thresh (operands 2 2 1 85 0x1000 0) []))).isSome = true ∧
      (after (exec .rotate (started .rotate (operands 6 2 1 85 0x1000 0x2000) []))).isSome = true := by
  decide +kernel

/-- For StoreRoundsHalfToEven: representable values below, above and inside the range, the last one a tie. -/
theorem witness_store :
    F64.zero.representable ∧ (F64.ofInt 255).representable ∧ ({ man := 63, exp := -1 } : F64).representable := by
  unfold F64.representable
  decide +kernel

/-- For BinaryArithmeticRoundsToNearest, ConstantsAreAsListed and GrayExtremes, at the ends of the ranges. -/
theorem witness_arithmetic :
    (F64.ofInt 255).man ≠ 0 ∧ (2 ^ 53 - 1 : Int).natAbs < 2 ^ 53 ∧ 0 < 10000 ∧ 0 ≤ 255 ∧ 255 ≤ 255 := by decide +kernel

/-- For SpreadIsTheIntegerFormula: the ends of the error's range, and a tie. -/
theorem witness_spread :
    (spreadByte 250#8 128 7).toNat = 255 ∧ (spreadByte 18#8 (-126) 3).toNat = 0 ∧ (spreadByte 101#8 8 1).toNat = 102 := by
  decide +kernel

/-- For HalftoneMatchesTheLevelTable: the sums at which its clauses meet. -/
theorem witness_levels :
    levelBlack 2549 0 0 = true ∧ levelBlack 2550 0 0 = false ∧ levelBlack 3569 1 2 = true ∧ levelBlack 3570 1 2 = false ∧
      levelBlack 4080 3 3 = false := by decide

/-- For FourRotationsAreTheIdentity. -/
theorem witness_rotation : 5 < 3 * 2 ∧ rotateIndex 3 2 5 = 2 ∧ rotateIndex 3 2 0 = 3 := by decide

/-- For ValidateReportsTheFirstFailure: one request for each clause, in order; the two bases for alignment and range. -/
theorem witness_validate :
    validate (operands 0x11 1 1 85 0x1000 0x2000) = .reject .illegal 0#32 ∧
      validate (operands 1 65536 1 85 0x1003 0x2000) = .reject .param 0#32 ∧
      validate (operands 1 1 1 256 0x1000 0x2000) = .reject .param 0#32 ∧
      validate (operands 1 1 1 255 0x1002 0x2000) = .reject .align 0x1002#32 ∧
      validate (operands 6 1 1 85 0x1000 0x2001) = .reject .align 0x2001#32 ∧
      validate (operands 2 16 2 85 0xFFFFFFF0 0) = .reject .range 0xFFFFFFF0#32 ∧
      validate (operands 5 16 1 85 0x1000 0xFFFFFFFF) = .reject .range 0xFFFFFFFF#32 ∧
      validate (operands 6 2 2 85 0x1000 0x1008) = .reject .overlap 0x1008#32 ∧
      validate (operands 2 16 1 85 0xFFFFFFF0 0) = .accept .thresh := by
  decide +kernel

/-- For StartEntersRun: an accepted command that breaks no duty. -/
theorem witness_start :
    validate (operands 2 4 4 85 0x1000 0) = .accept .thresh ∧
      startHazard (ready (operands 2 4 4 85 0x1000 0) []) (claimOf .thresh (operands 2 4 4 85 0x1000 0)) = none := by
  decide +kernel

/-- For RejectedStartIsPrecise and StartWhileBusyIsDropped. -/
theorem witness_rejected :
    (ready (operands 0 0 0 85 0 0) []).phase = .idle ∧ validate (operands 0 0 0 85 0 0) = .reject .illegal 0#32 ∧
      (started .thresh (operands 2 2 1 85 0x1000 0) []).phase = .run := by decide

/-- For SoftResetAborts: its clauses in RUN and for the platform's reset. -/
theorem witness_reset :
    decodeCommand (started .thresh (operands 2 2 1 85 0x1000 0) []).lat.cmd = .instr .thresh ∧
      (readyWith .powerReset).pending = [.powerReset] := by decide

/-- For StartFaultsExactlyOnAHazard and StartHazardIsABrokenDuty: each duty broken. -/
theorem witness_hazards :
    let p := operands 2 2 1 85 0x1000 0
    let r : Region := { base := 0x1001, size := 1 }
    let s := ready p []
    faultOf (exec (.start false) { s with platform := { s.platform with unowned := [r] } }) = some (.hostHazard .extent) ∧
      faultOf (exec (.start false) { s with platform := { s.platform with special := [r] } }) =
        some (.hostHazard .memoryType) ∧
      faultOf (exec (.start false) { s with host := { s.host with dirty := [r] } }) = some (.hostHazard .coherence) ∧
      faultOf (exec (.start false) { s with others := [{ reads := r, writes := Region.empty }] }) =
        some (.hostHazard .sharing) := by
  decide +kernel

/-- For OtherInstancesMayNotShareWrittenBytes: a claim that shares a written byte with this device's command or with a third
instance's, and one that does not. -/
theorem witness_sharing :
    faultOf (step (startedWith (.otherStart { reads := { base := 0x1001, size := 1 }, writes := Region.empty }))) =
        some (.hostHazard .sharing) ∧
      faultOf
          (step { readyWith (.otherStart { reads := Region.empty, writes := { base := 0x3000, size := 8 } }) with
            others := [{ reads := { base := 0x3007, size := 1 }, writes := Region.empty }] }) =
        some (.hostHazard .sharing) ∧
      (after (step (startedWith (.otherStart { reads := { base := 0x1002, size := 1 }, writes := Region.empty })))).isSome =
        true := by
  decide +kernel

/-- For ReadWithoutInvalidateIsAHazard: a completed command on a platform without coherence, and an early read. -/
theorem witness_stale :
    let s := { started .thresh (operands 2 2 1 85 0x1000 0) [] with platform := { Platform.plain with coherent := false } }
    let u := { s with
      host := { HostView.fresh with stale := [{ base := 0x1000, size := 2 }] }, pending := [.host (.load 0x1001#32 .byte)] }
    (after (exec .thresh s)).map (fun t => t.host.stale) = some u.host.stale ∧
      reachesWindow u.platform 0x1001#32 .byte = false ∧ 0x1001 ∈ accessBytes 0x1001#32 .byte ∧
      u.lentForWriting 0x1001 = false ∧ faultOf (step u) = some (.hostHazard .coherence) := by
  decide +kernel

/-- For BadRegisterAccessIsAHazard: a narrow access, a misaligned one, and one that leaves the window at its end. -/
theorem witness_bad_register :
    faultOf (step (readyWith (.host (.store 0x80000004#32 .half 1#32)))) = some (.hostHazard .registerAccess) ∧
      faultOf (step (readyWith (.host (.load 0x80000009#32 .word)))) = some (.hostHazard .registerAccess) ∧
      faultOf (step (readyWith (.host (.load 0x800000FE#32 .word)))) = some (.hostHazard .registerAccess) ∧
      faultOf (step (readyWith (.host (.store 0x7FFFFFFF#32 .word 0#32)))) = some (.hostHazard .registerAccess) := by
  decide +kernel

/-- For HostWriteToABusyBufferIsAHazard: the last byte of the running command's buffer. -/
theorem witness_busy_buffer :
    (startedWith (.host (.store 0x1001#32 .byte 9#32))).inv = true ∧
      reachesWindow Platform.plain 0x1001#32 .byte = false ∧
      (readRange .thresh (operands 2 2 1 85 4096 0)).has 0x1001 = true ∧
      faultOf (step (startedWith (.host (.store 0x1001#32 .byte 9#32)))) = some (.hostHazard .ownership) := by
  decide +kernel

/-- For OperandRegistersHoldWhatIsWritten, RegisterReadsHaveNoEffect and StepRunsTheWrittenControlOperation: register
accesses reach their registers. -/
theorem witness_register_access :
    Platform.plain.mmioBase.toNat % 256 = 0 ∧
      (after (step (readyWith (wr Platform.plain .dstAddr 0xFFFFFFFF#32)))).map (readReg .dstAddr) = some 0xFFFFFFFF#32 ∧
      (after (step (readyWith (rd Platform.plain .bright)))).map (fun s => s.host.lastRead) = some (some 85#32) ∧
      decodeCtrl false 2#32 = .instr .srst ∧ 4#32 &&& 3#32 = 0#32 ∧
      (after (step (readyWith (wr Platform.plain .ctrl 4#32)))).map ctrlWord = some 4#32 ∧
      decodeStatus 0xE#32 = .instr (.clear true true true) := by
  decide +kernel

/-- For ReadOnlyAndReservedOffsetsIgnoreWrites: the offsets at which its clauses meet. -/
theorem witness_offsets : regAt 0x28 = some .errAddr ∧ regAt 0x2C = none ∧ regAt 0xFC = none := by decide

/-- For StepRunsTheLatchedCommand and OperandWritesDoNotReachTheRunningCommand. -/
theorem witness_latched :
    (startedWith .finish).phase = .run ∧ decodeCommand (startedWith .finish).lat.cmd = .instr .thresh ∧
      (startedWith .finish).pending = [.finish] := by decide

/-- For ProgressStaysInItsBounds. -/
theorem witness_progress :
    validate (startedWith .work).lat = .accept .thresh ∧
      (startedWith .work).progress.toNat ≤ elements .thresh (startedWith .work).lat ∧
      (startedWith .work).pending = [.work] := by
  decide +kernel

/-- For HostReadsMemory and HostStoresReachMemory: accesses of each width outside any lent range, up to the last address and,
where the addresses wrap, past it. -/
theorem witness_host_memory :
    (after (step { readyWith (.host (.load 0x1000#32 .word)) with mem := fill 0x1000 [1, 2, 3, 4] })).map
        (fun s => s.host.lastRead) = some (some 0x04030201#32) ∧
      (after (step { readyWith (.host (.load 0x1002#32 .half)) with mem := fill 0x1000 [1, 2, 3, 4] })).map
        (fun s => s.host.lastRead) = some (some 0x0403#32) ∧
      (after (step { readyWith (.host (.load 0x1003#32 .byte)) with mem := fill 0x1000 [1, 2, 3, 4] })).map
        (fun s => s.host.lastRead) = some (some 0x04#32) ∧
      reachesWindow Platform.plain 0xFFFFFFFF#32 .half = false ∧
      bytesAfter (step (readyWith (.host (.store 0xFFFFFFFF#32 .half 0x0201#32)))) 0xFFFFFFFF 1 = some [1] ∧
      bytesAfter (step (readyWith (.host (.store 0xFFFFFFFF#32 .half 0x0201#32)))) 0 1 = some [2] ∧
      bytesAfter (step (readyWith (.host (.store 0xFFFFFFFC#32 .word 0x04030201#32)))) 0xFFFFFFFC 4 = some [1, 2, 3, 4] ∧
      (startedWith (.host (.store 0x1002#32 .byte 9#32))).lent 0x1002 = false := by
  decide +kernel

/-- Rules R78 and R294 for another instance's command: a store to its ranges is HostHazard. -/
theorem test_other_ownership :
    faultOf
        (step { readyWith (.host (.store 0x3000#32 .byte 1#32)) with
          others := [{ reads := { base := 0x3000, size := 1 }, writes := Region.empty }] }) =
      some (.hostHazard .ownership) := by
  decide +kernel

end Sys2Proof.Tests
end

section
/-! What every step keeps of the platform and of the schedule (rules R7, R14). -/

namespace Sys2Proof.Machine

/-- `t` has the platform's parameters and the events to come of `s`. -/
def SamePlatformAndSchedule (s t : State) : Prop := t.platform = s.platform ∧ t.pending = s.pending

theorem SamePlatformAndSchedule.refl (s : State) : SamePlatformAndSchedule s s := ⟨rfl, rfl⟩

theorem runCommand_keepsPlatform {i : Instr} {body : Memory → Memory} {s t : State}
    (h : runCommand i body s = .next t) : SamePlatformAndSchedule s t := by
  obtain ⟨-, rfl⟩ | ⟨-, -, rfl⟩ | ⟨-, -, rfl⟩ := runCommand_cases h
  · exact .refl _
  · exact ⟨by simp, by simp⟩
  · exact ⟨by simp, by simp⟩

theorem startAccepted_keepsPlatform {irqEn : Bool} {s t : State} (h : startAccepted irqEn s = .next t) :
    SamePlatformAndSchedule s t := by
  obtain ⟨code, addr, -, hs⟩ | ⟨i, why, -, -, hs⟩ | ⟨i, -, -, hs⟩ := startAccepted_cases irqEn s
  all_goals rw [hs] at h; cases h
  · exact ⟨rfl, rfl⟩
  · exact ⟨rfl, rfl⟩

theorem execStart_keepsPlatform {irqEn : Bool} {s t : State} (h : exec (.start irqEn) s = .next t) :
    SamePlatformAndSchedule s t := by
  cases hp : s.phase with
  | idle =>
    rw [execStart_idle irqEn hp] at h
    exact startAccepted_keepsPlatform h
  | run =>
    rw [execStart_run irqEn hp] at h
    cases h
    exact ⟨rfl, rfl⟩

/-- The commands go the one way of `runCommand`; each control operation sets only registers of the device. -/
theorem exec_keepsPlatform {i : Instr} {s t : State} (h : exec i s = .next t) : SamePlatformAndSchedule s t := by
  by_cases hc : Request.isCommand i = true
  · rw [exec_command hc] at h
    exact runCommand_keepsPlatform h
  · cases i with
    | start irqEn => exact execStart_keepsPlatform h
    | startBusy irqEn =>
      rw [execStartBusy_eq] at h
      exact execStart_keepsPlatform h
    | srst =>
      cases h
      exact ⟨deviceReset_platform s, deviceReset_pending s⟩
    | clear done err ign =>
      cases h
      exact ⟨rfl, rfl⟩
    | gray _ | thresh | diffuse | halftone | pack | rotate => exact absurd rfl hc

theorem writeOffset_keepsPlatform {offset : Nat} {v : Word} {s t : State} (h : writeOffset offset v s = .next t) :
    SamePlatformAndSchedule s t := by
  obtain ⟨-, i, -, hw⟩ | ⟨-, hw⟩ | ⟨-, hw⟩ | ⟨p, hw⟩ | hw := writeOffset_cases offset v s
  all_goals rw [hw] at h
  · exact exec_keepsPlatform h
  · cases h; exact ⟨rfl, rfl⟩
  · exact exec_keepsPlatform h
  · cases h; exact ⟨rfl, rfl⟩
  · cases h; exact .refl _

theorem loadRegister_keepsPlatform (offset : Nat) (s : State) : SamePlatformAndSchedule s (loadRegister offset s) := by
  obtain hl | ⟨-, hl⟩ := loadRegister_cases offset s
  all_goals rw [hl]; exact ⟨rfl, rfl⟩

theorem senseIrq_keepsPlatform (line : Nat) (s : State) : SamePlatformAndSchedule s (senseIrq line s) := by
  unfold senseIrq
  split <;> exact ⟨rfl, rfl⟩

/-- Each host operation, by the route of its access (rules R20, R61, R69). -/
theorem hostOp_keepsPlatform {op : HostOp} {s t : State} (h : hostOp op s = .next t) : SamePlatformAndSchedule s t := by
  cases op with
  | store addr w v =>
    simp only [hostOp] at h
    split at h
    · exact writeOffset_keepsPlatform h
    · cases h
    · obtain ⟨-, rfl⟩ := storeMemory_cases h
      exact ⟨by simp, by simp⟩
  | load addr w =>
    simp only [hostOp] at h
    split at h
    · cases h; exact loadRegister_keepsPlatform _ s
    · cases h
    · cases loadMemory_cases h
      exact ⟨rfl, rfl⟩
  | senseIrq line => cases h; exact senseIrq_keepsPlatform line s
  | clean r => cases h; exact ⟨rfl, rfl⟩
  | invalidate r => cases h; exact ⟨rfl, rfl⟩

theorem engineFinish_keepsPlatform {s t : State} (h : engineFinish s = .next t) : SamePlatformAndSchedule s t := by
  unfold engineFinish at h
  split at h
  · cases h; exact .refl _
  · split at h
    · exact exec_keepsPlatform h
    · cases h

theorem engineWork_keepsPlatform (s : State) : SamePlatformAndSchedule s (engineWork s) := by
  unfold engineWork
  split
  · exact .refl _
  · split <;> exact ⟨rfl, rfl⟩

theorem otherStarts_keepsPlatform {c : Claim} {s t : State} (h : otherStarts c s = .next t) :
    SamePlatformAndSchedule s t := by
  obtain ⟨-, ho⟩ | ⟨-, ho⟩ := otherStarts_cases c s
  all_goals rw [ho] at h; cases h
  exact ⟨rfl, rfl⟩

theorem otherEnds_keepsPlatform (c : Claim) (s : State) : SamePlatformAndSchedule s (otherEnds c s) := by
  unfold otherEnds
  split <;> exact ⟨rfl, rfl⟩

/-- No event, delivered, changes the platform or the events after it. -/
theorem deliver_keepsPlatform {e : Event} {s t : State} (h : deliver e s = .next t) : SamePlatformAndSchedule s t := by
  cases e with
  | host op => exact hostOp_keepsPlatform h
  | work => cases h; exact engineWork_keepsPlatform s
  | finish => exact engineFinish_keepsPlatform h
  | powerReset => cases h; exact ⟨deviceReset_platform s, deviceReset_pending s⟩
  | otherStart c => exact otherStarts_keepsPlatform h
  | otherEnd c => cases h; exact otherEnds_keepsPlatform c s

/-- Settles O9: with nothing pending the engine's turn keeps the schedule, and otherwise the first event is delivered in
a state whose schedule is already the tail. -/
theorem everyStepKeepsThePlatform : Obligations.EveryStepKeepsThePlatform := by
  intro s t h
  cases hp : s.pending with
  | nil =>
    rw [step_nil hp] at h
    obtain ⟨hplatform, hpending⟩ := engineFinish_keepsPlatform h
    exact ⟨hplatform, hpending.trans hp⟩
  | cons e rest =>
    rw [step_cons hp] at h
    exact deliver_keepsPlatform h

end Sys2Proof.Machine
end

section
/-! Binary64 over the rationals (rule R10): one rounding answers the nearest value, ties to even. -/

namespace Sys2Proof.Machine

/-! ### Powers of two, and the value at an exponent -/

theorem twoPow_pos (n : Int) : 0 < twoPow n := Nat.two_pow_pos _

theorem twoPow_ratCast_pos (n : Int) : (0 : ℚ) < twoPow n := Nat.cast_pos.2 (twoPow_pos n)

theorem twoPow_of_nonneg {n : Int} (h : 0 ≤ n) : (twoPow n : ℚ) = 2 ^ n := by
  obtain ⟨k, rfl⟩ := Int.eq_ofNat_of_zero_le h
  simp [twoPow]

theorem twoPow_of_nonpos {n : Int} (h : n ≤ 0) : twoPow n = 1 := by
  simp [twoPow, Int.toNat_of_nonpos h]

/-- The two halves of a signed power of two: one of them is 1. -/
theorem twoPow_div_twoPow_neg (n : Int) : (twoPow n : ℚ) / twoPow (-n) = 2 ^ n := by
  obtain h | h := le_total 0 n
  · rw [twoPow_of_nonneg h, twoPow_of_nonpos (n := -n) (by omega)]
    simp
  · rw [twoPow_of_nonneg (n := -n) (by omega), twoPow_of_nonpos h, zpow_neg]
    simp

theorem two_zpow_pos (n : Int) : (0 : ℚ) < 2 ^ n := zpow_pos two_pos n

theorem F64.zero_value : F64.zero.value = 0 := by simp [F64.zero, F64.value]

theorem F64.zero_representable : F64.zero.representable := by
  constructor <;> decide

/-- At a lower or equal exponent the significand stands for the same number. -/
theorem F64.manAt_mul_zpow (a : F64) {e : Int} (h : e ≤ a.exp) : (a.manAt e : ℚ) * 2 ^ e = a.value := by
  have hpow : (twoPow (a.exp - e) : ℚ) * 2 ^ e = 2 ^ a.exp := by
    rw [twoPow_of_nonneg (by omega), ← zpow_add₀ two_ne_zero, sub_add_cancel]
  simp only [F64.manAt, F64.value, Int.cast_mul, Int.cast_natCast]
  rw [mul_assoc, hpow]

/-! ### The comparisons and the absolute value -/

/-- Two values compare as their significands at the lower exponent do. -/
theorem F64.manAt_min_le_iff (a b : F64) :
    a.manAt (min a.exp b.exp) ≤ b.manAt (min a.exp b.exp) ↔ a.value ≤ b.value := by
  rw [← a.manAt_mul_zpow (min_le_left a.exp b.exp), ← b.manAt_mul_zpow (min_le_right a.exp b.exp),
    mul_le_mul_iff_left₀ (two_zpow_pos _), Int.cast_le]

theorem F64.le_iff (a b : F64) : a.le b = true ↔ a.value ≤ b.value := by
  simp only [F64.le, decide_eq_true_eq]
  exact a.manAt_min_le_iff b

theorem F64.ge_iff (a b : F64) : a.ge b = true ↔ b.value ≤ a.value := b.le_iff a

theorem F64.lt_iff (a b : F64) : a.lt b = true ↔ a.value < b.value := by
  simp only [F64.lt, decide_eq_true_eq]
  rw [← not_le, ← not_le, min_comm, b.manAt_min_le_iff a]

theorem F64.abs_value (a : F64) : a.abs.value = |a.value| := by
  simp only [F64.abs, F64.value]
  rw [abs_mul, abs_of_pos (two_zpow_pos a.exp), Int.cast_natCast, Nat.cast_natAbs, Int.cast_abs]

/-! ### The rounded quotient -/

/-- `f + φ` rounded to an integer, ties to even, for a fraction `φ` of 1: the decision that `divNearestEven` and `store8`
(rules R10, R12) both take. -/
def halfToEven (f : Nat) (φ : ℚ) : Nat :=
  if φ < 1 / 2 then f else if 1 / 2 < φ then f + 1 else if f % 2 = 0 then f else f + 1

/-- The answer is within a half of the exact number, and even when it is a half away. -/
theorem halfToEven_near (f : Nat) {φ : ℚ} (h0 : 0 ≤ φ) (h1 : φ < 1) :
    |(halfToEven f φ : ℚ) - (f + φ)| ≤ 1 / 2 ∧
      (|(halfToEven f φ : ℚ) - (f + φ)| = 1 / 2 → halfToEven f φ % 2 = 0) := by
  have hdown : |(f : ℚ) - (f + φ)| = φ := by rw [sub_add_cancel_left, abs_neg, abs_of_nonneg h0]
  have hup : |((f + 1 : Nat) : ℚ) - (f + φ)| = 1 - φ := by
    rw [Nat.cast_add_one, add_sub_add_left_eq_sub, abs_of_pos (sub_pos.2 h1)]
  obtain hlt | rfl | hgt := lt_trichotomy φ (1 / 2)
  · rw [halfToEven, if_pos hlt, hdown]
    exact ⟨hlt.le, fun h => absurd h hlt.ne⟩
  · rw [halfToEven, if_neg (lt_irrefl _), if_neg (lt_irrefl _)]
    split
    case isTrue heven => exact ⟨hdown.le, fun _ => heven⟩
    case isFalse hodd => exact ⟨by rw [hup]; norm_num, fun _ => by omega⟩
  · rw [halfToEven, if_neg hgt.not_gt, if_pos hgt, hup]
    exact ⟨by linarith, fun h => by linarith⟩

/-- The remainder compares with half the divisor as the fraction does with a half. -/
theorem divNearestEven_eq (n : Nat) {d : Nat} (hd : 0 < d) :
    divNearestEven n d = halfToEven (n / d) ((n % d : Nat) / d) := by
  have hdq : (0 : ℚ) < d := Nat.cast_pos.2 hd
  have hlt : ((n % d : Nat) : ℚ) / d < 1 / 2 ↔ 2 * (n % d) < d := by
    rw [div_lt_div_iff₀ hdq two_pos, one_mul, mul_comm]
    exact_mod_cast Iff.rfl
  have hgt : (1 : ℚ) / 2 < (n % d : Nat) / d ↔ d < 2 * (n % d) := by
    rw [div_lt_div_iff₀ two_pos hdq, one_mul, mul_comm ((n % d : Nat) : ℚ)]
    exact_mod_cast Iff.rfl
  simp only [divNearestEven, halfToEven, hlt, hgt]
  obtain h | h | h := lt_trichotomy (2 * (n % d)) d
  · rw [if_neg h.not_gt, if_neg h.ne, if_pos h]
  · rw [if_neg h.ge.not_gt, if_pos h]
  · rw [if_pos h, if_neg h.not_gt, if_pos h]

/-- The quotient of rule R10's rounding is within a half of the exact one, and even when it is a half away. -/
theorem divNearestEven_near (n : Nat) {d : Nat} (hd : 0 < d) :
    |(divNearestEven n d : ℚ) - n / d| ≤ 1 / 2 ∧
      (|(divNearestEven n d : ℚ) - n / d| = 1 / 2 → divNearestEven n d % 2 = 0) := by
  have hdq : (0 : ℚ) < d := Nat.cast_pos.2 hd
  have hsplit : (n : ℚ) / d = (n / d : Nat) + (n % d : Nat) / d := by
    rw [div_eq_iff hdq.ne', add_mul, div_mul_cancel₀ _ hdq.ne']
    exact_mod_cast (Nat.div_add_mod' n d).symm
  rw [hsplit, divNearestEven_eq n hd]
  exact halfToEven_near _ (by positivity) ((div_lt_one hdq).2 (Nat.cast_lt.2 (Nat.mod_lt n hd)))

/-- `floorLog2` brackets the quotient between two successive powers of two. -/
theorem floorLog2_brackets {m d : Nat} (hm : 0 < m) (hd : 0 < d) :
    (2 : ℚ) ^ floorLog2 m d ≤ (m : ℚ) / d ∧ (m : ℚ) / d < 2 ^ (floorLog2 m d + 1) := by
  have hdq : (0 : ℚ) < d := Nat.cast_pos.2 hd
  have hmq : (0 : ℚ) < m := Nat.cast_pos.2 hm
  have hmlo : (2 : ℚ) ^ (Nat.log2 m : Int) ≤ m := by
    exact_mod_cast Nat.log2_self_le hm.ne'
  have hmhi : (m : ℚ) < 2 ^ ((Nat.log2 m : Int) + 1) := by
    exact_mod_cast Nat.lt_log2_self
  have hdlo : (2 : ℚ) ^ (Nat.log2 d : Int) ≤ d := by
    exact_mod_cast Nat.log2_self_le hd.ne'
  have hdhi : (d : ℚ) < 2 ^ ((Nat.log2 d : Int) + 1) := by
    exact_mod_cast Nat.lt_log2_self
  have hlow : (2 : ℚ) ^ ((Nat.log2 m : Int) - Nat.log2 d - 1) ≤ m / d := by
    rw [sub_sub, zpow_sub₀ two_ne_zero]
    exact div_le_div₀ hmq.le hmlo hdq hdhi.le
  have hhigh : (m : ℚ) / d < 2 ^ ((Nat.log2 m : Int) - Nat.log2 d + 1) := by
    rw [sub_add_eq_add_sub, zpow_sub₀ two_ne_zero]
    exact div_lt_div₀ hmhi hdlo (two_zpow_pos _).le (two_zpow_pos _)
  have hcond : ∀ l : Int, d * twoPow l ≤ m * twoPow (-l) ↔ (2 : ℚ) ^ l ≤ m / d := by
    intro l
    rw [← twoPow_div_twoPow_neg l, div_le_div_iff₀ (twoPow_ratCast_pos _) hdq, mul_comm d]
    exact_mod_cast Iff.rfl
  simp only [floorLog2, hcond]
  split
  case isTrue h => exact ⟨h, hhigh⟩
  case isFalse h => exact ⟨hlow, by rwa [sub_add_cancel, ← not_le]⟩

/-! ### The significand and the exponent of a rounding -/

/-- The exponent of the last place when `m / d * 2^e` is rounded, less `e`. -/
def roundPlace (m d : Nat) (e : Int) : Int := max (floorLog2 m d - 52) (F64.minExp - e)

/-- The significand of that rounding, before it is brought below `2^53`. -/
def roundSig (m d : Nat) (e : Int) : Nat :=
  divNearestEven (m * twoPow (-roundPlace m d e)) (d * twoPow (roundPlace m d e))

/-- The exact significand, in units of the last place, that `roundSig` rounds. -/
def exactSig (m d : Nat) (e : Int) : ℚ := m / d / 2 ^ roundPlace m d e

/-- `F64.round` in terms of its place and significand. -/
theorem F64.round_eq {n : Int} (d : Nat) (e : Int) (hn : n ≠ 0) :
    F64.round n d e =
      if roundSig n.natAbs d e = 0 then F64.zero
      else if roundSig n.natAbs d e = 2 ^ 53 then { man := n.sign * 2 ^ 52, exp := roundPlace n.natAbs d e + e + 1 }
      else { man := n.sign * roundSig n.natAbs d e, exp := roundPlace n.natAbs d e + e } :=
  if_neg (Int.natAbs_ne_zero.2 hn)

theorem F64.round_zero (d : Nat) (e : Int) : F64.round 0 d e = F64.zero := rfl

/-- The significand is the exact one rounded to the nearest integer, ties to even. -/
theorem roundSig_near (m : Nat) {d : Nat} (e : Int) (hd : 0 < d) :
    |(roundSig m d e : ℚ) - exactSig m d e| ≤ 1 / 2 ∧
      (|(roundSig m d e : ℚ) - exactSig m d e| = 1 / 2 → roundSig m d e % 2 = 0) := by
  have hscale : exactSig m d e =
      ((m * twoPow (-roundPlace m d e) : Nat) : ℚ) / (d * twoPow (roundPlace m d e) : Nat) := by
    rw [exactSig, ← twoPow_div_twoPow_neg, div_div_eq_mul_div, div_mul_eq_mul_div, div_div, Nat.cast_mul, Nat.cast_mul]
  rw [hscale]
  exact divNearestEven_near _ (Nat.mul_pos hd (twoPow_pos _))

/-- The exact significand is below `2^53`. -/
theorem exactSig_lt {m d : Nat} (e : Int) (hm : 0 < m) (hd : 0 < d) :
    exactSig m d e < 2 ^ 53 := by
  rw [exactSig, div_lt_iff₀ (two_zpow_pos _)]
  calc (m : ℚ) / d < 2 ^ (floorLog2 m d + 1) := (floorLog2_brackets hm hd).2
    _ ≤ 2 ^ (53 + roundPlace m d e) := by
      refine zpow_le_zpow_right₀ one_le_two ?_
      have : floorLog2 m d - 52 ≤ roundPlace m d e := le_max_left _ _
      omega
    _ = 2 ^ 53 * 2 ^ roundPlace m d e := by rw [zpow_add₀ two_ne_zero]; norm_cast

/-- Above the least exponent the exact significand has all its 53 bits. -/
theorem le_exactSig {m d : Nat} {e : Int} (hm : 0 < m) (hd : 0 < d) (h : F64.minExp < roundPlace m d e + e) :
    2 ^ 52 ≤ exactSig m d e := by
  have hplace : roundPlace m d e = floorLog2 m d - 52 := by
    unfold roundPlace at h ⊢
    omega
  rw [exactSig, le_div_iff₀ (two_zpow_pos _)]
  calc (2 : ℚ) ^ 52 * 2 ^ roundPlace m d e = 2 ^ floorLog2 m d := by
        rw [hplace, ← zpow_natCast, ← zpow_add₀ two_ne_zero]; norm_num
    _ ≤ m / d := (floorLog2_brackets hm hd).1

theorem roundSig_le {m d : Nat} (e : Int) (hm : 0 < m) (hd : 0 < d) : roundSig m d e ≤ 2 ^ 53 := by
  have hnear := (abs_le.1 (roundSig_near m e hd).1).2
  have hexact := exactSig_lt e hm hd
  have hlt : (roundSig m d e : ℚ) < (2 ^ 53 + 1 : Nat) := by push_cast; linarith
  exact Nat.lt_succ_iff.1 (Nat.cast_lt.1 hlt)

/-! ### The rounded value -/

theorem natAbs_sign_mul_natCast {n : Int} (hn : n ≠ 0) (q : Nat) : (n.sign * (q : Int)).natAbs = q := by
  rw [Int.natAbs_mul, Int.natAbs_sign_of_ne_zero hn, one_mul, Int.natAbs_natCast]

theorem cast_eq_sign_mul_natAbs (n : Int) : (n : ℚ) = n.sign * n.natAbs := by
  rw [← Int.cast_natCast n.natAbs, ← Int.cast_mul, Int.sign_mul_natAbs]

/-- Bringing the significand below `2^53` does not change the number. -/
theorem F64.round_value {n : Int} (d : Nat) (e : Int) (hn : n ≠ 0) :
    (F64.round n d e).value =
      (n.sign * roundSig n.natAbs d e : Int) * (2 : ℚ) ^ (roundPlace n.natAbs d e + e) := by
  rw [F64.round_eq d e hn]
  split
  case isTrue h => simp [h, F64.zero_value]
  case isFalse =>
    split
    case isTrue h =>
      simp only [h, F64.value, zpow_add_one₀ (two_ne_zero (α := ℚ))]
      push_cast
      ring
    case isFalse => rfl

theorem F64.round_representable {n : Int} {d : Nat} (e : Int) (hn : n ≠ 0) (hd : 0 < d) :
    (F64.round n d e).representable := by
  have hexp : F64.minExp ≤ roundPlace n.natAbs d e + e := by
    have : F64.minExp - e ≤ roundPlace n.natAbs d e := le_max_right _ _
    omega
  have hsig := roundSig_le e (Int.natAbs_pos.2 hn) hd
  rw [F64.round_eq d e hn]
  split
  case isTrue => exact F64.zero_representable
  case isFalse =>
    split
    case isTrue =>
      refine ⟨?_, by dsimp only; omega⟩
      have hman := natAbs_sign_mul_natCast hn (2 ^ 52)
      rw [Nat.cast_pow, Nat.cast_ofNat] at hman
      exact hman.trans_lt (by norm_num)
    case isFalse h =>
      refine ⟨?_, hexp⟩
      simp only [natAbs_sign_mul_natCast hn]
      omega

theorem F64.round_man_even {n : Int} (d : Nat) (e : Int) (hn : n ≠ 0) (h : roundSig n.natAbs d e % 2 = 0) :
    (F64.round n d e).man % 2 = 0 := by
  rw [F64.round_eq d e hn]
  have hdvd : (2 : Int) ∣ roundSig n.natAbs d e := by omega
  split
  case isTrue => rfl
  case isFalse =>
    split
    case isTrue => exact Int.emod_eq_zero_of_dvd (Dvd.dvd.mul_left (by decide) _)
    case isFalse => exact Int.emod_eq_zero_of_dvd (Dvd.dvd.mul_left hdvd _)

/-! ### The nearest value -/

/-- An integer within a half of `t` is nearest to it among the integers, and another one is as near only at a half. -/
theorem nearest_integer {k : Int} {t : ℚ} (h : |(k : ℚ) - t| ≤ 1 / 2) (j : Int) :
    |(k : ℚ) - t| ≤ |(j : ℚ) - t| ∧ (|(k : ℚ) - t| = |(j : ℚ) - t| → j ≠ k → |(k : ℚ) - t| = 1 / 2) := by
  by_cases hjk : j = k
  · subst hjk
    exact ⟨le_rfl, fun _ hne => absurd rfl hne⟩
  · have hgap : (1 : ℚ) ≤ |(j : ℚ) - t| + |(k : ℚ) - t| := by
      calc (1 : ℚ) ≤ |(j : ℚ) - k| := by exact_mod_cast Int.one_le_abs (sub_ne_zero.2 hjk)
        _ ≤ |(j : ℚ) - t| + |t - k| := abs_sub_le _ _ _
        _ = |(j : ℚ) - t| + |(k : ℚ) - t| := by rw [abs_sub_comm t]
    exact ⟨by linarith, fun heq _ => by linarith⟩

/-- A number below `2^52 ≤ |t|` in size is farther from `t` than the integer nearest to `t`. -/
theorem nearest_integer_lt_of_small {k : Int} {t z : ℚ} (h : |(k : ℚ) - t| ≤ 1 / 2) (ht : 2 ^ 52 ≤ |t|)
    (hz : |z| < 2 ^ 52) : |(k : ℚ) - t| < |z - t| := by
  have hz' : |t| - |z| ≤ |z - t| := by
    rw [abs_sub_comm]
    exact abs_sub_abs_le_abs_sub t z
  obtain hpos | hneg := le_total 0 t
  · have hgrid := (nearest_integer h (2 ^ 52)).1
    rw [abs_of_nonneg hpos] at ht hz'
    rw [Int.cast_pow, Int.cast_ofNat, abs_of_nonpos (a := 2 ^ 52 - t) (by linarith)] at hgrid
    linarith
  · have hgrid := (nearest_integer h (-2 ^ 52)).1
    rw [abs_of_nonpos hneg] at ht hz'
    rw [Int.cast_neg, Int.cast_pow, Int.cast_ofNat, abs_of_nonneg (a := -2 ^ 52 - t) (by linarith)] at hgrid
    linarith

/-- A representable value, in units `2^u` of the last place, is an integer or below `2^52`. -/
theorem F64.representable_inUnits {y : F64} (hy : y.representable) (u : Int) :
    (∃ j : Int, y.value = j * 2 ^ u) ∨ y.exp < u ∧ ∃ z : ℚ, y.value = z * 2 ^ u ∧ |z| < 2 ^ 52 := by
  obtain h | h := le_or_gt u y.exp
  · exact .inl ⟨y.manAt u, (y.manAt_mul_zpow h).symm⟩
  · refine .inr ⟨h, y.man * 2 ^ (y.exp - u), ?_, ?_⟩
    · rw [mul_assoc, ← zpow_add₀ two_ne_zero, sub_add_cancel]
      rfl
    · have hman : |(y.man : ℚ)| < 2 ^ 53 := by
        rw [← Int.cast_abs, Int.abs_eq_natAbs]
        exact_mod_cast hy.1
      have hpow : (2 : ℚ) ^ (y.exp - u) ≤ 2 ^ (-1 : Int) := zpow_le_zpow_right₀ one_le_two (by omega)
      rw [abs_mul, abs_of_pos (two_zpow_pos _)]
      calc |(y.man : ℚ)| * 2 ^ (y.exp - u) ≤ |(y.man : ℚ)| * 2 ^ (-1 : Int) :=
            mul_le_mul_of_nonneg_left hpow (abs_nonneg _)
        _ < 2 ^ 53 * 2 ^ (-1 : Int) := mul_lt_mul_of_pos_right hman (two_zpow_pos _)
        _ = 2 ^ 52 := by norm_num

/-- A representable value is nearest to `t` units of the last place when its own number `k` of units is nearest to `t`,
ties to even, and the unit is the least one or `t` has all 53 bits. -/
theorem F64.isNearest_of_units {x : F64} {k u : Int} {t : ℚ} (hx : x.representable) (hk : x.value = k * 2 ^ u)
    (hnear : |(k : ℚ) - t| ≤ 1 / 2) (htie : |(k : ℚ) - t| = 1 / 2 → x.man % 2 = 0)
    (hbits : F64.minExp < u → 2 ^ 52 ≤ |t|) : x.isNearest (t * 2 ^ u) := by
  have hdist : ∀ z : ℚ, |z * 2 ^ u - t * 2 ^ u| = |z - t| * 2 ^ u := by
    intro z
    rw [← sub_mul, abs_mul, abs_of_pos (two_zpow_pos u)]
  have hpos : (0 : ℚ) < 2 ^ u := two_zpow_pos u
  refine ⟨hx, fun y hy => ?_⟩
  obtain ⟨j, hj⟩ | ⟨hexp, z, hz, hsmall⟩ := F64.representable_inUnits hy u
  · obtain ⟨hle, heq⟩ := nearest_integer hnear j
    rw [hk, hj, hdist, hdist, mul_le_mul_iff_left₀ hpos, mul_left_inj' hpos.ne']
    refine ⟨hle, fun he hne => htie (heq he ?_)⟩
    rintro rfl
    exact hne rfl
  · have hlt := nearest_integer_lt_of_small hnear (hbits (hy.2.trans_lt hexp)) hsmall
    rw [hk, hz, hdist, hdist, mul_le_mul_iff_left₀ hpos, mul_left_inj' hpos.ne']
    exact ⟨hlt.le, fun he => absurd he hlt.ne⟩

theorem F64.zero_isNearest : F64.zero.isNearest 0 := by
  refine ⟨F64.zero_representable, fun y _ => ⟨?_, fun _ _ => rfl⟩⟩
  rw [F64.zero_value, sub_zero, abs_zero]
  exact abs_nonneg _

/-- The exact number in units of the last place, with its sign. -/
theorem exact_eq_inUnits (n : Int) (d : Nat) (e : Int) :
    (n : ℚ) / d * 2 ^ e = n.sign * exactSig n.natAbs d e * 2 ^ (roundPlace n.natAbs d e + e) := by
  have hunit := (two_zpow_pos (roundPlace n.natAbs d e)).ne'
  calc (n : ℚ) / d * 2 ^ e = n.sign * n.natAbs / d * 2 ^ e := by rw [← cast_eq_sign_mul_natAbs]
    _ = n.sign * exactSig n.natAbs d e * 2 ^ (roundPlace n.natAbs d e + e) := by
      rw [exactSig, zpow_add₀ two_ne_zero]
      field_simp

theorem abs_sign_mul {n : Int} (hn : n ≠ 0) (r : ℚ) : |n.sign * r| = |r| := by
  rw [abs_mul, ← Int.cast_abs, Int.abs_sign_of_ne_zero hn, Int.cast_one, one_mul]

/-- The one rounding of every operation (rule R10): nearest to the exact number, ties to even. -/
theorem F64.round_isNearest (n : Int) {d : Nat} (e : Int) (hd : 0 < d) :
    (F64.round n d e).isNearest ((n : ℚ) / d * 2 ^ e) := by
  by_cases hn : n = 0
  · subst hn
    simpa [F64.round_zero] using F64.zero_isNearest
  have hdist : |((n.sign * roundSig n.natAbs d e : Int) : ℚ) - n.sign * exactSig n.natAbs d e| =
      |(roundSig n.natAbs d e : ℚ) - exactSig n.natAbs d e| := by
    rw [Int.cast_mul, Int.cast_natCast, ← mul_sub, abs_sign_mul hn]
  obtain ⟨hnear, htie⟩ := roundSig_near n.natAbs e hd
  rw [exact_eq_inUnits]
  refine F64.isNearest_of_units (F64.round_representable e hn hd) (F64.round_value d e hn) ?_ ?_ ?_
  · rwa [hdist]
  · rw [hdist]
    exact fun h => F64.round_man_even d e hn (htie h)
  · intro h
    rw [abs_sign_mul hn]
    exact (le_exactSig (Int.natAbs_pos.2 hn) hd h).trans (le_abs_self _)

/-! ### The operations -/

theorem F64.add_isNearest (a b : F64) : (a.add b).isNearest (a.value + b.value) := by
  have h := F64.round_isNearest (a.manAt (min a.exp b.exp) + b.manAt (min a.exp b.exp)) (min a.exp b.exp) one_pos
  rwa [Nat.cast_one, div_one, Int.cast_add, add_mul, a.manAt_mul_zpow (min_le_left _ _),
    b.manAt_mul_zpow (min_le_right _ _)] at h

theorem F64.sub_isNearest (a b : F64) : (a.sub b).isNearest (a.value - b.value) := by
  have h := F64.round_isNearest (a.manAt (min a.exp b.exp) - b.manAt (min a.exp b.exp)) (min a.exp b.exp) one_pos
  rwa [Nat.cast_one, div_one, Int.cast_sub, sub_mul, a.manAt_mul_zpow (min_le_left _ _),
    b.manAt_mul_zpow (min_le_right _ _)] at h

theorem F64.mul_isNearest (a b : F64) : (a.mul b).isNearest (a.value * b.value) := by
  have h := F64.round_isNearest (a.man * b.man) (a.exp + b.exp) one_pos
  rwa [Nat.cast_one, div_one, Int.cast_mul, zpow_add₀ two_ne_zero, mul_mul_mul_comm] at h

theorem F64.div_isNearest (a : F64) {b : F64} (hb : b.man ≠ 0) : (a.div b).isNearest (a.value / b.value) := by
  have hquot : ((a.man * b.man.sign : Int) : ℚ) / b.man.natAbs = a.man / b.man := by
    have hsign : (b.man.sign : ℚ) * b.man = b.man.natAbs := by
      rw [← Int.cast_mul, Int.sign_mul_self_eq_abs, Nat.cast_natAbs]
    have hman : (b.man : ℚ) ≠ 0 := Int.cast_ne_zero.2 hb
    have habs : (b.man.natAbs : ℚ) ≠ 0 := Nat.cast_ne_zero.2 (Int.natAbs_ne_zero.2 hb)
    rw [div_eq_div_iff habs hman, Int.cast_mul, mul_assoc, hsign]
  have h := F64.round_isNearest (a.man * b.man.sign) (a.exp - b.exp) (Int.natAbs_pos.2 hb)
  rwa [hquot, zpow_sub₀ two_ne_zero, div_mul_div_comm] at h

/-- A rounding of a representable value is exact. -/
theorem F64.isNearest.value_eq {x y : F64} {v : ℚ} (h : x.isNearest v) (hy : y.representable) (hv : y.value = v) :
    x.value = v := by
  have hle := (h.2 y hy).1
  rw [hv, sub_self, abs_zero] at hle
  exact sub_eq_zero.1 (abs_nonpos_iff.1 hle)

theorem F64.lit_isNearest (n : Int) {d : Nat} (hd : 0 < d) : (F64.lit n d).isNearest ((n : ℚ) / d) := by
  have h := F64.round_isNearest n 0 hd
  rwa [zpow_zero, mul_one] at h

theorem F64.intValue_representable {n : Int} (h : n.natAbs < 2 ^ 53) :
    ({ man := n, exp := 0 } : F64).representable :=
  ⟨h, show F64.minExp ≤ 0 by decide⟩

theorem F64.intValue_value (n : Int) : ({ man := n, exp := 0 } : F64).value = n := by
  simp [F64.value]

/-- Rule R10's `toF`: a small integer converts exactly. -/
theorem F64.ofInt_value {n : Int} (h : n.natAbs < 2 ^ 53) : (F64.ofInt n).value = n := by
  have hnear := F64.lit_isNearest n one_pos
  rw [Nat.cast_one, div_one] at hnear
  exact hnear.value_eq (F64.intValue_representable h) (F64.intValue_value n)

/-- Settles O24: each operation is one rounding of its exact result, and the comparisons meet at the lower exponent. -/
theorem binaryArithmeticRoundsToNearest : Obligations.BinaryArithmeticRoundsToNearest :=
  ⟨fun a b => ⟨a.add_isNearest b, a.sub_isNearest b, a.mul_isNearest b, a.div_isNearest, a.abs_value, a.lt_iff b,
    a.le_iff b, a.ge_iff b⟩, fun _ => F64.ofInt_value⟩

end Sys2Proof.Machine
end

section
/-! The constants of rule R11. -/

namespace Sys2Proof.Machine

/-- `F(1.5)` is exact: 3 halves have a two-bit significand. -/
theorem halftoneCenter_value : halftoneCenter.value = 3 / 2 :=
  (F64.lit_isNearest 3 two_pos).value_eq (y := { man := 3, exp := -1 }) (by unfold F64.representable; decide)
    (by norm_num [F64.value])

theorem weightR_eq : weightR = { man := 0x1b333333333333, exp := -55 } := by decide

theorem weightG_eq : weightG = { man := 0x16e48e8a71de6a, exp := -53 } := by decide

theorem weightB_eq : weightB = { man := 0x127525460aa64c, exp := -56 } := by decide

/-- Settles O25: a literal is one rounding, and the listed constants are evaluated from their significands. -/
theorem constantsAreAsListed : Obligations.ConstantsAreAsListed := by
  refine ⟨fun n d hd => F64.lit_isNearest n hd, weightR_eq, weightG_eq, weightB_eq, ?_, ?_, ?_, ?_, ?_, ?_, ?_, ?_, ?_,
    halftoneCenter_value⟩
  · rw [weightR_eq]; norm_num [F64.value]
  · rw [weightG_eq]; norm_num [F64.value]
  · rw [weightB_eq]; norm_num [F64.value]
  all_goals exact_mod_cast F64.ofInt_value (by decide)

end Sys2Proof.Machine
end

section
/-! `store8` (rule R12): the value splits into its floor and an exact fraction. -/

namespace Sys2Proof.Machine

theorem F64.man_nonneg_iff (x : F64) : 0 ≤ x.man ↔ 0 ≤ x.value := by
  rw [F64.value, mul_nonneg_iff_of_pos_right (two_zpow_pos _), Int.cast_nonneg_iff]

/-- What the floor leaves of a value that is not negative. -/
def F64.fraction (x : F64) : F64 := { man := x.man % twoPow (-x.exp), exp := x.exp }

theorem F64.fraction_representable {x : F64} (hx : x.representable) (h : 0 ≤ x.man) : x.fraction.representable := by
  obtain ⟨hman, hexp⟩ := hx
  refine ⟨lt_of_le_of_lt ?_ hman, hexp⟩
  obtain ⟨m, hm⟩ := Int.eq_ofNat_of_zero_le h
  simp only [F64.fraction, hm, ← Int.natCast_emod, Int.natAbs_natCast]
  exact Nat.mod_le m _

theorem F64.fraction_nonneg (x : F64) : 0 ≤ x.fraction.value := by
  rw [← F64.man_nonneg_iff]
  exact Int.emod_nonneg _ (by exact_mod_cast (twoPow_pos _).ne')

theorem F64.fraction_lt_one (x : F64) : x.fraction.value < 1 := by
  obtain h | h := le_total 0 x.exp
  · simp [F64.fraction, F64.value, twoPow_of_nonpos (n := -x.exp) (by omega)]
  · have hlt : ((x.man % twoPow (-x.exp) : Int) : ℚ) < 2 ^ (-x.exp) := by
      rw [← twoPow_of_nonneg (n := -x.exp) (by omega)]
      exact_mod_cast Int.emod_lt_of_pos x.man (Int.natCast_pos.2 (twoPow_pos (-x.exp)))
    calc x.fraction.value < 2 ^ (-x.exp) * 2 ^ x.exp := mul_lt_mul_of_pos_right hlt (two_zpow_pos _)
      _ = 1 := by rw [← zpow_add₀ two_ne_zero, neg_add_cancel, zpow_zero]

theorem F64.floorNat_add_fraction {x : F64} (h : 0 ≤ x.man) : (x.floorNat : ℚ) + x.fraction.value = x.value := by
  obtain ⟨m, hm⟩ := Int.eq_ofNat_of_zero_le h
  obtain hexp | hexp := le_total 0 x.exp
  · simp [F64.floorNat, F64.fraction, F64.value, hm, twoPow_of_nonpos (n := -x.exp) (by omega), twoPow_of_nonneg hexp]
  · have hunit : (2 : ℚ) ^ (-x.exp) * 2 ^ x.exp = 1 := by
      rw [← zpow_add₀ two_ne_zero, neg_add_cancel, zpow_zero]
    have hdiv : (m : ℚ) = (m / twoPow (-x.exp) : Nat) * twoPow (-x.exp) + (m % twoPow (-x.exp) : Nat) := by
      exact_mod_cast (Nat.div_add_mod' m (twoPow (-x.exp))).symm
    rw [twoPow_of_nonneg (n := -x.exp) (by omega)] at hdiv
    have hfloor : x.floorNat = m / twoPow (-x.exp) := by
      simp [F64.floorNat, hm, twoPow_of_nonpos hexp]
    have hfraction : x.fraction.value = (m % twoPow (-x.exp) : Nat) * 2 ^ x.exp := by
      simp only [F64.fraction, F64.value, hm, ← Int.natCast_emod, Int.cast_natCast]
    rw [hfloor, hfraction, F64.value, hm, Int.cast_natCast, hdiv]
    linear_combination -((m / twoPow (-x.exp) : Nat) : ℚ) * hunit

/-- Below `2^53`, taking the floor away is exact (rule R12). -/
theorem F64.sub_floorNat_value {x : F64} (hx : x.representable) (h : 0 ≤ x.man) (hf : x.floorNat < 2 ^ 53) :
    (x.sub (F64.ofInt x.floorNat)).value = x.fraction.value := by
  have hsub := x.sub_isNearest (F64.ofInt x.floorNat)
  rw [F64.ofInt_value (by omega), Int.cast_natCast, ← F64.floorNat_add_fraction h, add_sub_cancel_left] at hsub
  exact hsub.value_eq (F64.fraction_representable hx h) rfl

theorem F64.half_value : (F64.lit 1 2).value = 1 / 2 := by
  have h := F64.lit_isNearest 1 two_pos
  rw [Int.cast_one, Nat.cast_ofNat] at h
  exact h.value_eq (y := { man := 1, exp := -1 }) (by unfold F64.representable; decide) (by norm_num [F64.value])

theorem store8_of_nonpos {x : F64} (h : x.value ≤ 0) : store8 x = 0#8 := by
  unfold store8
  rw [if_pos ((x.le_iff F64.zero).2 (by rwa [F64.zero_value]))]

theorem ofInt_255_value : (F64.ofInt 255).value = 255 := by exact_mod_cast F64.ofInt_value (n := 255) (by decide)

theorem store8_of_255_le {x : F64} (h : 255 ≤ x.value) : store8 x = 255#8 := by
  unfold store8
  rw [if_neg, if_pos ((x.ge_iff _).2 (by rwa [ofInt_255_value]))]
  rw [x.le_iff, F64.zero_value]
  linarith

/-- Between the clamps `store8` answers the floor or the next integer, as the fraction says. -/
theorem store8_toNat {x : F64} (hx : x.representable) (h0 : 0 < x.value) (h255 : x.value < 255) :
    (store8 x).toNat = halfToEven x.floorNat x.fraction.value := by
  have hman : 0 ≤ x.man := x.man_nonneg_iff.2 h0.le
  have hfloor : x.floorNat < 255 := by
    have hsplit := F64.floorNat_add_fraction hman
    have hfraction := x.fraction_nonneg
    exact_mod_cast (show (x.floorNat : ℚ) < 255 by linarith)
  have hsub := F64.sub_floorNat_value hx hman (by omega)
  unfold store8 halfToEven
  rw [if_neg (by rw [x.le_iff, F64.zero_value]; exact h0.not_ge),
    if_neg (by rw [x.ge_iff, ofInt_255_value]; exact h255.not_ge)]
  simp only [F64.lt_iff, hsub, F64.half_value]
  split_ifs <;> exact Nat.mod_eq_of_lt (by omega)

/-- Settles O23: beside the clamps, the fraction that the floor leaves is rounded half to even. -/
theorem storeRoundsHalfToEven : Obligations.StoreRoundsHalfToEven := by
  intro x hx
  refine ⟨store8_of_nonpos, store8_of_255_le, fun h0 h255 => ?_⟩
  rw [store8_toNat hx h0 h255, ← F64.floorNat_add_fraction (x.man_nonneg_iff.2 h0.le)]
  exact halfToEven_near _ x.fraction_nonneg x.fraction_lt_one

end Sys2Proof.Machine
end

section
/-! Register accesses: the address of a register reaches it, and what a write does at each kind of offset (rules R20 to R32, R230). -/

namespace Sys2Proof.Machine

/-! ### From the bus address to the register -/

theorem mem_accessBytes_word (addr : Word) (a : Nat) :
    a ∈ accessBytes addr .word ↔ ∃ k < 4, (addr + BitVec.ofNat 32 k).toNat = a := by
  simp [accessBytes, Width.bytes]

/-- A window at a multiple of 256 does not wrap: an offset below 256 is added without carry out of 32 bits. -/
theorem toNat_mmioBase_add {base : Word} {d : Nat} (hbase : base.toNat % 256 = 0) (hd : d < 256) :
    (base + BitVec.ofNat 32 d).toNat = base.toNat + d := by
  rw [BitVec.toNat_add, BitVec.toNat_ofNat]
  omega

/-- One aligned 32-bit access inside the window reaches the register at its offset (rules R20, R69). -/
theorem route_window {p : Platform} {d : Nat} (hbase : p.mmioBase.toNat % 256 = 0) (hd : d < 256) (h4 : d % 4 = 0) :
    route p (p.mmioBase + BitVec.ofNat 32 d) .word = .register d := by
  have haddr := toNat_mmioBase_add hbase hd
  have hall : ∀ a ∈ accessBytes (p.mmioBase + BitVec.ofNat 32 d) .word, p.window.has a = true := by
    intro a ha
    obtain ⟨k, hk, rfl⟩ := (mem_accessBytes_word _ a).1 ha
    rw [has_iff, BitVec.toNat_add, haddr, BitVec.toNat_ofNat]
    simp only [Platform.window, Config.windowSize]
    omega
  have hfirst := (mem_accessBytes_word (p.mmioBase + BitVec.ofNat 32 d) _).2 ⟨0, by decide, rfl⟩
  have hany : (accessBytes (p.mmioBase + BitVec.ofNat 32 d) .word).any (fun a => p.window.has a) = true :=
    List.any_eq_true.2 ⟨_, hfirst, hall _ hfirst⟩
  have hoffset : (p.mmioBase + BitVec.ofNat 32 d).toNat - p.mmioBase.toNat = d := by omega
  simp only [route, hany, List.all_eq_true.2 hall, hoffset, h4, decide_true, Bool.and_self, if_true]

@[simp] theorem regAt_offsetOf (r : Reg) : regAt (offsetOf r) = some r := by cases r <;> rfl

theorem route_offsetOf {p : Platform} (hbase : p.mmioBase.toNat % 256 = 0) (r : Reg) :
    route p (p.mmioBase + BitVec.ofNat 32 (offsetOf r)) .word = .register (offsetOf r) :=
  route_window hbase (by cases r <;> decide) (by cases r <;> decide)

/-- The step of the host's 32-bit write of a register (rule R98). -/
theorem step_wr {s : State} {r : Reg} {v : Word} {rest : List Event} (hbase : s.platform.mmioBase.toNat % 256 = 0)
    (h : s.pending = wr s.platform r v :: rest) : step s = writeOffset (offsetOf r) v (s.setPending rest) := by
  rw [step_cons h]
  simp [wr, deliver, hostOp, route_offsetOf hbase]

/-! ### What a write does -/

theorem writeOffset_ctrl (v : Word) (s : State) : writeOffset (offsetOf .ctrl) v s = writeCtrl v s := rfl

theorem writeOffset_status (v : Word) (s : State) : writeOffset (offsetOf .status) v s = writeStatus v s := rfl

theorem writeCtrl_instr {v : Word} {s : State} {i : Instr} (h : decodeCtrl s.busy v = .instr i) :
    writeCtrl v s = exec i s := by
  simp [writeCtrl, h]

theorem writeStatus_instr {v : Word} {i : Instr} (h : decodeStatus v = .instr i) (s : State) :
    writeStatus v s = exec i s := by
  simp [writeStatus, h]

/-- A CTRL value with bits 0 and 1 clear is no control operation (rule R22). -/
theorem decodeCtrl_plain {v : Word} (h : v &&& 0x00000003#32 = 0#32) (busy : Bool) :
    decodeCtrl busy v = .reject .plainCtrlWrite := by
  have h0 : v.getLsbD 0 = false := by simpa using congrArg (fun w : Word => w.getLsbD 0) h
  have h1 : v.getLsbD 1 = false := by simpa using congrArg (fun w : Word => w.getLsbD 1) h
  simp only [decodeCtrl, h0, h1, Bool.false_eq_true, if_false]

theorem writeCtrl_plain {v : Word} (h : v &&& 0x00000003#32 = 0#32) (s : State) :
    writeCtrl v s = .next (s.setIrqEn (v.getLsbD 2)) := by
  simp [writeCtrl, decodeCtrl_plain h]

/-- The operand registers with one of them set; the other registers of the window are none of them. -/
def withOperand (p : Params) (r : Reg) (v : Word) : Params :=
  match r with
  | .cmd => { p with cmd := v }
  | .width => { p with width := v }
  | .height => { p with height := v }
  | .bright => { p with bright := v }
  | .srcAddr => { p with src := v }
  | .dstAddr => { p with dst := v }
  | .id | .ctrl | .status | .progress | .errAddr => p

/-- The operand registers (rules R24 to R29). -/
def operandRegs : List Reg := [.cmd, .width, .height, .bright, .srcAddr, .dstAddr]

theorem writeOffset_operand {r : Reg} (h : r ∈ operandRegs) (v : Word) (s : State) :
    writeOffset (offsetOf r) v s = .next (s.setRegs (withOperand s.regs r v)) := by
  cases r with
  | cmd | width | height | bright | srcAddr | dstAddr => rfl
  | id | ctrl | status | progress | errAddr => simp [operandRegs] at h

theorem readReg_withOperand_same {r : Reg} (h : r ∈ operandRegs) (v : Word) (s : State) :
    readReg r (s.setRegs (withOperand s.regs r v)) = v := by
  cases r with
  | cmd | width | height | bright | srcAddr | dstAddr => rfl
  | id | ctrl | status | progress | errAddr => simp [operandRegs] at h

theorem readReg_withOperand_other {q r : Reg} (h : q ≠ r) (v : Word) (s : State) :
    readReg q (s.setRegs (withOperand s.regs r v)) = readReg q s := by
  cases q with
  | id | ctrl | status | progress | errAddr => rfl
  | cmd | width | height | bright | srcAddr | dstAddr => cases r <;> first | rfl | exact absurd rfl h

/-- The offsets above the last register are reserved (rule R32). -/
theorem regAt_reserved {offset : Nat} (h : 0x2C ≤ offset) : regAt offset = none := by
  obtain ⟨k, rfl⟩ := Nat.exists_eq_add_of_le' h
  rfl

theorem writeOffset_reserved {offset : Nat} (h : 0x2C ≤ offset) (v : Word) (s : State) :
    writeOffset offset v s = .next s := by
  simp [writeOffset, regAt_reserved h]

theorem readOffset_reserved {offset : Nat} (h : 0x2C ≤ offset) (s : State) : readOffset offset s = 0#32 := by
  simp [readOffset, regAt_reserved h]

/-! ### The obligations -/

/-- Settles O52: the write reaches its register and sets that one field of the operand registers. -/
theorem operandRegistersHoldWhatIsWritten : Obligations.OperandRegistersHoldWhatIsWritten := by
  intro s r v rest hbase hr hp
  refine ⟨(s.setPending rest).setRegs (withOperand s.regs r v), ?_, readReg_withOperand_same hr v (s.setPending rest),
    ?_, rfl, rfl, rfl, rfl⟩
  · rw [step_wr hbase hp, writeOffset_operand hr]
    rfl
  · intro q hq
    calc readReg q ((s.setPending rest).setRegs (withOperand s.regs r v))
        = readReg q (s.setPending rest) := readReg_withOperand_other hq v (s.setPending rest)
      _ = readReg q s := by cases q <;> rfl

/-- Settles O53: the three read-only registers by their offsets, the rest because no register stands there. -/
theorem readOnlyAndReservedOffsetsIgnoreWrites : Obligations.ReadOnlyAndReservedOffsetsIgnoreWrites := by
  intro s offset v h
  refine ⟨?_, rfl, fun hres => readOffset_reserved hres s⟩
  obtain rfl | rfl | rfl | hres := h
  · rfl
  · rfl
  · rfl
  · exact writeOffset_reserved hres v s

/-- Settles O56: the write reaches CTRL or STATUS, and the value decodes there; taking the event off the schedule does not
change BUSY. -/
theorem stepRunsTheWrittenControlOperation : Obligations.StepRunsTheWrittenControlOperation := by
  intro s v rest hbase
  refine ⟨fun hp => ⟨fun i hi => ?_, fun hv => ?_⟩, fun hp i hi => ?_, fun hp => ?_⟩
  · rw [step_wr hbase hp, writeOffset_ctrl]
    exact writeCtrl_instr hi
  · rw [step_wr hbase hp, writeOffset_ctrl, writeCtrl_plain hv]
  · rw [step_wr hbase hp, writeOffset_status, writeStatus_instr hi]
  · rw [step_cons hp]
    rfl

end Sys2Proof.Machine
end

section
/-! The reset state, the interrupt level and PROGRESS (rules R30, R35, R40). -/

namespace Sys2Proof.Machine

/-! ### Reset -/

/-- The fields that rule R40 lists, at their reset values. -/
structure AtReset (t : State) : Prop where
  irqEn : t.irqEn = false
  status : t.status = Status.reset
  regs : t.regs = Params.reset
  progress : t.progress = 0#32
  errAddr : t.errAddr = 0#32
  phase : t.phase = .idle

theorem atReset_reset : AtReset State.reset := ⟨rfl, rfl, rfl, rfl, rfl, rfl⟩

theorem atReset_deviceReset (s : State) : AtReset (deviceReset s) := by constructor <;> simp

section
variable {t : State} (h : AtReset t)
include h

theorem AtReset.statusWord_eq : statusWord t = 0#32 := by
  simp [statusWord, State.busy, h.phase, h.status, Status.reset, bit, ErrCode.toNat]

theorem AtReset.ctrlWord_eq : ctrlWord t = 0#32 := by simp [ctrlWord, h.irqEn, bit]

theorem AtReset.irq_eq : irq t = false := by simp [irq, h.irqEn]

end

/-- A reset in IDLE changes no byte (rule R290). -/
theorem deviceReset_read_idle {s : State} (h : s.phase = .idle) (a : Nat) :
    (deviceReset s).mem.read a = s.mem.read a := by
  rw [deviceReset_mem, abortedRange_idle h, Memory.read_scramble, if_neg]
  simp [has_iff, Region.empty]

/-- In RUN a reset aborts the latched command (rule R291). -/
theorem abortedRange_run {s : State} {i : Instr} (h : s.phase = .run) (hd : decodeCommand s.lat.cmd = .instr i) :
    abortedRange s = writeRange i s.lat := by
  simp [abortedRange, h, hd]

/-- Settles O5: both states have the listed fields at their reset values, and a reset scrambles the aborted range only. -/
theorem resetStateIsAsListed : Obligations.ResetStateIsAsListed := by
  intro s
  refine ⟨fun t ht => ?_, deviceReset_read_idle, fun i hp hd a ha => ?_⟩
  · have h : AtReset t := by
      obtain rfl | rfl := ht
      · exact atReset_reset
      · exact atReset_deviceReset s
    simp [readReg, h.statusWord_eq, h.ctrlWord_eq, h.irq_eq, h.irqEn, h.phase, h.status, h.regs, h.progress, h.errAddr,
      Status.reset, Params.reset, Config.deviceId, Config.brightReset]
  · rw [deviceReset_mem, abortedRange_run hp hd, Memory.read_scramble, ha]
    rfl

/-! ### The interrupt level -/

/-- With DONE and ERR clear the line is low (rules R35, R270). -/
theorem irq_eq_false_of_flags {s : State} (hd : s.status.done = false) (he : s.status.err = false) : irq s = false := by
  simp [irq, hd, he]

/-- With IRQ_EN clear the line is low (rules R35, R270). -/
theorem irq_eq_false_of_irqEn {s : State} (h : s.irqEn = false) : irq s = false := by simp [irq, h]

theorem irqLevel_irqLine (s : State) : irqLevel s s.platform.irqLine = irq s := by simp [irqLevel]

/-- Settles O45: each way of rule R270 clears both flags or the enable, and IGN is not read. -/
theorem irqIsTheLevel : Obligations.IrqIsTheLevel := fun s =>
  ⟨rfl, rfl, fun _ => irq_eq_false_of_flags (Bool.and_false _) (Bool.and_false _), irq_eq_false_of_irqEn rfl,
    irq_eq_false_of_flags rfl rfl, irqLevel_irqLine s⟩

/-! ### The engine's work -/

theorem engineWork_idle {s : State} (h : s.phase = .idle) : engineWork s = s := by simp [engineWork, h]

/-- The work of a running command draws a new PROGRESS (rule R30). -/
theorem engineWork_run {s : State} {i : Instr} (h : s.phase = .run) (hd : decodeCommand s.lat.cmd = .instr i) :
    engineWork s = (s.setProgress (freeProgress s.freeCount (elements i s.lat) s.progress)).draw 1 := by
  simp [engineWork, h, hd]

/-- A PROGRESS drawn for an accepted command is within its bounds (rules R30, R73). -/
theorem freeProgress_bounds_of_accept {p : Params} {i : Instr} (h : validate p = .accept i) (k : Nat) {now : Word}
    (hnow : now.toNat ≤ elements i p) :
    now.toNat ≤ (freeProgress k (elements i p) now).toNat ∧ (freeProgress k (elements i p) now).toNat ≤ elements i p := by
  obtain ⟨-, hw, hh, -⟩ := validate_accept h
  exact freeProgress_bounds k _ now hnow (elements_lt hw hh)

/-- Settles O57: the step is the engine's work, which only draws a PROGRESS within its bounds. -/
theorem progressStaysInItsBounds : Obligations.ProgressStaysInItsBounds := by
  intro s i rest hrun hv hle hp
  obtain ⟨hlow, hhigh⟩ := freeProgress_bounds_of_accept hv s.freeCount hle
  have hwork := engineWork_run (s := s.setPending rest) hrun (validate_accept hv).1
  exact ⟨_, (step_cons hp).trans (congrArg Host.Outcome.next hwork), hlow, hhigh, hrun, rfl, rfl, rfl, rfl, rfl, rfl, rfl⟩

end Sys2Proof.Machine
end

section
/-! The machine's invariant (rules R30, R34, R231, R235, R260, R261, R263, R294): what a step can do, said once, and what
each of these transitions keeps. -/

namespace Sys2Proof.Machine

/-! ### What a step can do -/

/-- Every change of the state that one agent's turn can make, once its event is off the schedule. -/
inductive Transition (s : State) : State → Prop
  /-- Nothing happens: an idle engine, or a write to a read-only or reserved offset. -/
  | stutter : Transition s s
  /-- The running command completes (rule R235). -/
  | completed (i : Instr) (hrun : s.phase = .run) :
    Transition s
      ((complete i (s.setMem (commandMemory i s.lat s.mem))).markWritten (writeRange i s.lat)).forgetLatches
  /-- The running command ends with ERR_BUS (rule R265). -/
  | failed (i : Instr) (failing : List Nat) (hrun : s.phase = .run) : Transition s (busError i failing s)
  /-- A START is rejected (rule R264). -/
  | rejected (irqEn : Bool) {code : ErrCode} {addr : Word} (hv : validate s.regs = .reject code addr) :
    Transition s ((((s.setIrqEn irqEn).latchOperands).clearOutcome).raiseError code addr)
  /-- A START is accepted (rule R231). -/
  | started (irqEn : Bool) {i : Instr} (hv : validate s.regs = .accept i) :
    Transition s ((((s.setIrqEn irqEn).latchOperands).clearOutcome).enterRun (claimOf i s.regs))
  /-- A START is dropped (rule R236). -/
  | dropped (irqEn : Bool) : Transition s (startDropped irqEn s)
  /-- A soft reset or the reset input (rules R237, R290). -/
  | reset : Transition s (deviceReset s)
  /-- A STATUS write (rule R238). -/
  | cleared (done err ign : Bool) : Transition s (s.clearFlags done err ign)
  /-- A CTRL write that is no control operation (rule R22). -/
  | irqEnWritten (b : Bool) : Transition s (s.setIrqEn b)
  /-- A write of an operand register (rule R230). -/
  | operandWritten (p : Params) : Transition s (s.setRegs p)
  /-- A read of a register (rule R239). -/
  | registerRead (offset : Nat) : Transition s (loadRegister offset s)
  /-- A host read of memory (rule R62). -/
  | memoryRead (v : Word) : Transition s ((s.returned v).draw 1)
  /-- A host write of memory (rule R62). -/
  | memoryWritten (bytes : List Nat) (v : Word) :
    Transition s ((s.setMem (storeBytes s.mem bytes v)).markDirty bytes)
  /-- The host samples an interrupt input (rule R270). -/
  | irqSensed (line : Nat) : Transition s (senseIrq line s)
  /-- The host cleans its caches (rule R302). -/
  | cleaned (r : Region) : Transition s (cleanCaches r s)
  /-- The host invalidates its caches (rule R302). -/
  | invalidated (r : Region) : Transition s (invalidateCaches r s)
  /-- The engine works without ending its command (rule R30). -/
  | worked : Transition s (engineWork s)
  /-- Another device starts a command (rule R303). -/
  | otherStarted (c : Claim) : Transition s (s.setOthers (c :: s.others))
  /-- Another device ends a command (assumption 12). -/
  | otherEnded (c : Claim) : Transition s (otherEnds c s)

theorem startAccepted_transition {irqEn : Bool} {s t : State} (h : startAccepted irqEn s = .next t) :
    Transition s t := by
  obtain ⟨code, addr, hv, hs⟩ | ⟨i, why, -, -, hs⟩ | ⟨i, hv, -, hs⟩ := startAccepted_cases irqEn s
  all_goals rw [hs] at h; cases h
  · exact .rejected irqEn hv
  · exact .started irqEn hv

theorem execStart_transition {irqEn : Bool} {s t : State} (h : exec (.start irqEn) s = .next t) : Transition s t := by
  cases hp : s.phase with
  | idle =>
    rw [execStart_idle irqEn hp] at h
    exact startAccepted_transition h
  | run =>
    rw [execStart_run irqEn hp] at h
    cases h
    exact .dropped irqEn

theorem execCommand_transition {i : Instr} {s t : State} (hc : Request.isCommand i = true) (h : exec i s = .next t) :
    Transition s t := by
  rw [exec_command hc] at h
  obtain ⟨-, rfl⟩ | ⟨hrun, -, rfl⟩ | ⟨hrun, -, rfl⟩ := runCommand_cases h
  · exact .stutter
  · exact .completed i hrun
  · exact .failed i _ hrun

theorem exec_transition {i : Instr} {s t : State} (h : exec i s = .next t) : Transition s t := by
  cases i with
  | gray _ | thresh | diffuse | halftone | pack | rotate => exact execCommand_transition rfl h
  | start irqEn => exact execStart_transition h
  | startBusy irqEn =>
    rw [execStartBusy_eq] at h
    exact execStart_transition h
  | srst => cases h; exact .reset
  | clear done err ign => cases h; exact .cleared done err ign

theorem writeOffset_transition {offset : Nat} {v : Word} {s t : State} (h : writeOffset offset v s = .next t) :
    Transition s t := by
  obtain ⟨-, i, -, hw⟩ | ⟨-, hw⟩ | ⟨-, hw⟩ | ⟨p, hw⟩ | hw := writeOffset_cases offset v s
  all_goals rw [hw] at h
  · exact exec_transition h
  · cases h; exact .irqEnWritten _
  · exact exec_transition h
  · cases h; exact .operandWritten p
  · cases h; exact .stutter

theorem hostOp_transition {op : HostOp} {s t : State} (h : hostOp op s = .next t) : Transition s t := by
  cases op with
  | store addr w v =>
    simp only [hostOp] at h
    split at h
    · exact writeOffset_transition h
    · cases h
    · obtain ⟨-, rfl⟩ := storeMemory_cases h
      exact .memoryWritten _ v
  | load addr w =>
    simp only [hostOp] at h
    split at h
    · cases h; exact .registerRead _
    · cases h
    · cases loadMemory_cases h
      exact .memoryRead _
  | senseIrq line => cases h; exact .irqSensed line
  | clean r => cases h; exact .cleaned r
  | invalidate r => cases h; exact .invalidated r

theorem engineFinish_transition {s t : State} (h : engineFinish s = .next t) : Transition s t := by
  unfold engineFinish at h
  split at h
  · cases h; exact .stutter
  · split at h
    · exact exec_transition h
    · cases h

theorem otherStarts_transition {c : Claim} {s t : State} (h : otherStarts c s = .next t) : Transition s t := by
  obtain ⟨-, ho⟩ | ⟨-, ho⟩ := otherStarts_cases c s
  all_goals rw [ho] at h; cases h
  exact .otherStarted c

theorem deliver_transition {e : Event} {s t : State} (h : deliver e s = .next t) : Transition s t := by
  cases e with
  | host op => exact hostOp_transition h
  | work => cases h; exact .worked
  | finish => exact engineFinish_transition h
  | powerReset => cases h; exact .reset
  | otherStart c => exact otherStarts_transition h
  | otherEnd c => cases h; exact .otherEnded c

/-- A step makes one transition, from the state with the event of this turn taken off the schedule. -/
theorem step_transition {s t : State} (h : step s = .next t) : Transition (s.setPending s.pending.tail) t := by
  cases hp : s.pending with
  | nil =>
    rw [step_nil hp] at h
    have hself : s.setPending [] = s := by rw [← hp]; rfl
    rw [List.tail_nil, hself]
    exact engineFinish_transition h
  | cons e rest =>
    rw [step_cons hp] at h
    exact deliver_transition h

/-! ### Memory stays canonical -/

theorem otherEnds_mem_wf (c : Claim) {s : State} (hs : s.mem.wf = true) : (otherEnds c s).mem.wf = true := by
  unfold otherEnds
  split
  · exact Memory.scramble_wf _ _ _ hs
  · exact hs

theorem engineWork_mem (s : State) : (engineWork s).mem = s.mem := by
  unfold engineWork
  split
  · rfl
  · split <;> rfl

/-- All that sampling an interrupt input can do: it records the level, and a high one shows the command's end (rule R77). -/
theorem senseIrq_cases (line : Nat) (s : State) :
    (∃ v, senseIrq line s = s.returned v) ∨ (irq s = true ∧ ∃ v, senseIrq line s = (s.returned v).endSeen) := by
  unfold senseIrq
  simp only
  split
  · rename_i h
    exact .inr ⟨(Bool.and_eq_true_iff.1 h).1, _, rfl⟩
  · exact .inl ⟨_, rfl⟩

theorem Transition.mem_wf {s t : State} (h : Transition s t) (hs : s.mem.wf = true) : t.mem.wf = true := by
  cases h with
  | completed i _ => simpa using commandMemory_wf i s.lat s.mem hs
  | failed i failing _ => simpa using Memory.scramble_wf _ _ _ hs
  | reset => simpa using Memory.scramble_wf _ _ _ hs
  | registerRead offset =>
    obtain hl | ⟨-, hl⟩ := loadRegister_cases offset s
    all_goals rw [hl]; exact hs
  | memoryWritten bytes v => simpa using storeBytes_wf s.mem bytes v hs
  | irqSensed line =>
    obtain ⟨v, hl⟩ | ⟨-, v, hl⟩ := senseIrq_cases line s
    all_goals rw [hl]; exact hs
  | invalidated r => exact Memory.overwrite_wf _ _ _ hs
  | worked => rw [engineWork_mem]; exact hs
  | otherEnded c => exact otherEnds_mem_wf c hs
  | stutter | rejected | started | dropped | cleared | irqEnWritten | operandWritten | memoryRead | cleaned | otherStarted =>
    exact hs

/-! ### The device's part of the invariant -/

theorem consistent_iff (t : Status) (errAddr : Word) :
    t.consistent errAddr = true ↔
      (t.done = true → t.errCode = .none) ∧ (t.err = true → t.errCode ≠ .none) ∧
        (t.errCode.toNat ≤ 2 → errAddr = 0#32) := by
  simp [Status.consistent, imp_iff_not_or, and_assoc]

/-- What the invariant says of a state in phase RUN, field by field. -/
structure RunningCommand (i : Instr) (s : State) : Prop where
  accepted : validate s.lat = .accept i
  progress_le : s.progress.toNat ≤ elements i s.lat
  done : s.status.done = false
  err : s.status.err = false
  errCode : s.status.errCode = .none
  errAddr : s.errAddr = 0#32
  lent : claimOf i s.lat ∈ s.host.borrows

theorem running_of_idle {s : State} (h : s.phase = .idle) : s.running = true := by simp [State.running, h]

theorem running_iff_of_run {s : State} (h : s.phase = .run) : s.running = true ↔ ∃ i, RunningCommand i s := by
  unfold State.running
  rw [h]
  constructor
  · intro hr
    cases hv : validate s.lat with
    | accept i =>
      simp only [hv, Bool.and_eq_true, decide_eq_true_eq, Bool.not_eq_true', List.contains_iff_mem] at hr
      obtain ⟨⟨⟨⟨⟨hle, hdone⟩, herr⟩, hcode⟩, haddr⟩, hlent⟩ := hr
      exact ⟨i, hv, hle, hdone, herr, hcode, haddr, hlent⟩
    | reject code addr => simp [hv] at hr
  · rintro ⟨i, hv, hle, hdone, herr, hcode, haddr, hlent⟩
    simp [hv, hle, hdone, herr, hcode, haddr, hlent]

/-- The part of the invariant that speaks of the device's registers and phase, and of the ranges lent to it. -/
def DeviceInv (s : State) : Prop := s.status.consistent s.errAddr = true ∧ s.running = true

theorem inv_iff (s : State) :
    s.inv = true ↔ s.mem.wf = true ∧ DeviceInv s ∧ s.platform.mmioBase.toNat % 256 = 0 := by
  simp [State.inv, DeviceInv, and_assoc]

theorem DeviceInv.runningCommand {s : State} (hs : DeviceInv s) (h : s.phase = .run) : ∃ i, RunningCommand i s :=
  (running_iff_of_run h).1 hs.2

theorem RunningCommand.deviceInv {i : Instr} {s : State} (h : RunningCommand i s) (hrun : s.phase = .run) :
    DeviceInv s :=
  ⟨(consistent_iff _ _).2
      ⟨fun _ => h.errCode, fun he => absurd (h.err.symm.trans he) Bool.false_ne_true, fun _ => h.errAddr⟩,
    (running_iff_of_run hrun).2 ⟨i, h⟩⟩

/-- The line is low while a command runs, so a high one shows that the device is IDLE (rules R77, R231). -/
theorem DeviceInv.idle_of_irq {s : State} (hs : DeviceInv s) (h : irq s = true) : s.phase = .idle := by
  cases hp : s.phase with
  | idle => rfl
  | run =>
    obtain ⟨i, hr⟩ := hs.runningCommand hp
    rw [irq_eq_false_of_flags hr.done hr.err] at h
    cases h

/-! ### Each transition keeps it -/

theorem deviceInv_complete {s : State} (hs : DeviceInv s) (hrun : s.phase = .run) (i : Instr) (m : Memory) (r : Region) :
    DeviceInv ((complete i (s.setMem m)).markWritten r).forgetLatches := by
  obtain ⟨j, hr⟩ := hs.runningCommand hrun
  refine ⟨(consistent_iff _ _).2 ?_, running_of_idle (by simp)⟩
  simp [hr.err, hr.errAddr]

theorem deviceInv_busError {s : State} (hs : DeviceInv s) (hrun : s.phase = .run) (i : Instr) (failing : List Nat) :
    DeviceInv (busError i failing s) := by
  obtain ⟨j, hr⟩ := hs.runningCommand hrun
  refine ⟨(consistent_iff _ _).2 ?_, running_of_idle (by simp)⟩
  simp [hr.done, ErrCode.toNat]

/-- A rejection's code is not 0, and its address is 0 for codes 1 and 2 (rule R263). -/
theorem deviceInv_rejected (irqEn : Bool) {s : State} {code : ErrCode} {addr : Word}
    (hv : validate s.regs = .reject code addr) :
    DeviceInv ((((s.setIrqEn irqEn).latchOperands).clearOutcome).raiseError code addr) := by
  obtain ⟨hcode, haddr⟩ := validate_reject hv
  exact ⟨(consistent_iff _ _).2 ⟨fun hdone => absurd hdone Bool.false_ne_true, fun _ => hcode, haddr⟩, running_of_idle rfl⟩

/-- An accepted START clears the outcome and PROGRESS, and lends the ranges of the latched command (rules R231, R294). -/
theorem runningCommand_started (irqEn : Bool) {s : State} {i : Instr} (hv : validate s.regs = .accept i) :
    RunningCommand i ((((s.setIrqEn irqEn).latchOperands).clearOutcome).enterRun (claimOf i s.regs)) where
  accepted := hv
  progress_le := Nat.zero_le _
  done := rfl
  err := rfl
  errCode := rfl
  errAddr := rfl
  lent := List.mem_cons_self

theorem AtReset.deviceInv {s : State} (h : AtReset s) : DeviceInv s :=
  ⟨by rw [h.status, h.errAddr]; decide, running_of_idle h.phase⟩

/-- Clearing flags can only make both implications of the consistency weaker; in RUN there is no flag to clear. -/
theorem deviceInv_clearFlags {s : State} (hs : DeviceInv s) (done err ign : Bool) :
    DeviceInv (s.clearFlags done err ign) := by
  cases hp : s.phase with
  | idle =>
    obtain ⟨hdone, herr, haddr⟩ := (consistent_iff _ _).1 hs.1
    refine ⟨(consistent_iff _ _).2 ⟨fun h => hdone ?_, fun h => herr ?_, haddr⟩, running_of_idle hp⟩
    · exact (Bool.and_eq_true_iff.1 h).1
    · exact (Bool.and_eq_true_iff.1 h).1
  | run =>
    obtain ⟨i, hr⟩ := hs.runningCommand hp
    have hr' : RunningCommand i (s.clearFlags done err ign) :=
      ⟨hr.accepted, hr.progress_le, by simp [hr.done], by simp [hr.err], hr.errCode, hr.errAddr, hr.lent⟩
    exact hr'.deviceInv hp

theorem deviceInv_loadRegister {s : State} (hs : DeviceInv s) (offset : Nat) : DeviceInv (loadRegister offset s) := by
  obtain hl | ⟨hbusy, hl⟩ := loadRegister_cases offset s
  all_goals rw [hl]
  · exact hs
  · exact ⟨hs.1, running_of_idle (busy_eq_false.1 hbusy)⟩

theorem deviceInv_senseIrq {s : State} (hs : DeviceInv s) (line : Nat) : DeviceInv (senseIrq line s) := by
  obtain ⟨v, hl⟩ | ⟨hirq, v, hl⟩ := senseIrq_cases line s
  all_goals rw [hl]
  · exact hs
  · exact ⟨hs.1, running_of_idle (hs.idle_of_irq hirq)⟩

theorem deviceInv_stored {s : State} (hs : DeviceInv s) (m : Memory) (bytes : List Nat) :
    DeviceInv ((s.setMem m).markDirty bytes) := by
  unfold State.markDirty
  split <;> exact hs

theorem deviceInv_engineWork {s : State} (hs : DeviceInv s) : DeviceInv (engineWork s) := by
  cases hp : s.phase with
  | idle => rw [engineWork_idle hp]; exact hs
  | run =>
    obtain ⟨i, hr⟩ := hs.runningCommand hp
    rw [engineWork_run hp (validate_accept hr.accepted).1]
    have hbound := (freeProgress_bounds_of_accept hr.accepted s.freeCount hr.progress_le).2
    exact RunningCommand.deviceInv ⟨hr.accepted, hbound, hr.done, hr.err, hr.errCode, hr.errAddr, hr.lent⟩ hp

theorem deviceInv_otherEnds {s : State} (hs : DeviceInv s) (c : Claim) : DeviceInv (otherEnds c s) := by
  unfold otherEnds
  split <;> exact hs

theorem Transition.deviceInv {s t : State} (h : Transition s t) (hs : DeviceInv s) : DeviceInv t := by
  cases h with
  | completed i hrun => exact deviceInv_complete hs hrun i _ _
  | failed i failing hrun => exact deviceInv_busError hs hrun i failing
  | rejected irqEn hv => exact deviceInv_rejected irqEn hv
  | started irqEn hv => exact (runningCommand_started irqEn hv).deviceInv rfl
  | reset => exact (atReset_deviceReset s).deviceInv
  | cleared done err ign => exact deviceInv_clearFlags hs done err ign
  | registerRead offset => exact deviceInv_loadRegister hs offset
  | memoryWritten bytes v => exact deviceInv_stored hs _ bytes
  | irqSensed line => exact deviceInv_senseIrq hs line
  | worked => exact deviceInv_engineWork hs
  | otherEnded c => exact deviceInv_otherEnds hs c
  | stutter | dropped | irqEnWritten | operandWritten | memoryRead | cleaned | invalidated | otherStarted => exact hs

/-- Settles O6: memory is empty, the registers are those of rule R40, and the window is at 0x80000000. -/
theorem resetMeetsTheInvariant : Obligations.ResetMeetsTheInvariant :=
  (inv_iff _).2 ⟨rfl, atReset_reset.deviceInv, by decide⟩

/-- Settles O7: the step's transition keeps the form of memory and the device's part, and no step moves the window. -/
theorem everyStepKeepsTheInvariant : Obligations.EveryStepKeepsTheInvariant := by
  intro s t hs hstep
  obtain ⟨hmem, hdevice, hbase⟩ := (inv_iff s).1 hs
  have htransition := step_transition hstep
  have hplatform : t.platform = s.platform := (everyStepKeepsThePlatform s t hstep).1
  exact (inv_iff t).2 ⟨htransition.mem_wf hmem, htransition.deviceInv hdevice, by rw [hplatform]; exact hbase⟩

end Sys2Proof.Machine
end

section
/-! System memory: its canonical form, the range that a command may change, and what the host's accesses do (rules R62, R67, R69, R72,
R78, R239, R265, R294, R295). -/

namespace Sys2Proof.Machine

/-! ### The canonical form and the write range -/

/-- Settles O8: taking the event off the schedule leaves memory, and the step's transition keeps its form. -/
theorem everyStepKeepsMemoryCanonical : Obligations.EveryStepKeepsMemoryCanonical :=
  fun _ _ hwf hstep => (step_transition hstep).mem_wf hwf

/-- Settles O15, by the three ways a command's turn can go: idle, completed by its pseudocode, or ended by ERR_BUS, which
scrambles the write range. -/
theorem commandsWriteOnlyTheirRange : Obligations.CommandsWriteOnlyTheirRange := by
  intro i s t hc h a ha
  rw [exec_command hc] at h
  obtain ⟨-, rfl⟩ | ⟨-, -, rfl⟩ | ⟨-, -, rfl⟩ := runCommand_cases h
  · rfl
  · simpa using commandMemory_other i s.lat s.mem a ha
  · simp [Memory.read_scramble, ha]

/-! ### The bytes of an access -/

theorem mem_accessBytes (addr : Word) (w : Width) (a : Nat) :
    a ∈ accessBytes addr w ↔ ∃ k < w.bytes, (addr + BitVec.ofNat 32 k).toNat = a := by
  simp [accessBytes]

theorem bytes_le_four (w : Width) : w.bytes ≤ 4 := by cases w <;> decide

@[simp] theorem length_accessBytes (addr : Word) (w : Width) : (accessBytes addr w).length = w.bytes := by
  simp [accessBytes]

theorem getElem_accessBytes (addr : Word) (w : Width) (k : Nat) (hk : k < (accessBytes addr w).length) :
    (accessBytes addr w)[k] = (addr + BitVec.ofNat 32 k).toNat := by
  simp [accessBytes]

theorem toNat_mem_accessBytes (addr : Word) (w : Width) : addr.toNat ∈ accessBytes addr w :=
  (mem_accessBytes addr w _).2 ⟨0, by cases w <;> decide, by simp⟩

/-- An access has at most four bytes, so that its addresses differ even where they wrap (assumption 11). -/
theorem nodup_accessBytes (addr : Word) (w : Width) : (accessBytes addr w).Nodup := by
  refine List.Nodup.map_on (fun i hi j hj hij => ?_) List.nodup_range
  have hw := bytes_le_four w
  rw [List.mem_range] at hi hj
  rw [BitVec.toNat_add, BitVec.toNat_add, BitVec.toNat_ofNat, BitVec.toNat_ofNat] at hij
  omega

/-! ### The route of an access -/

/-- An access outside the register window goes to memory (rule R61). -/
theorem route_memory {p : Platform} {addr : Word} {w : Width} (h : reachesWindow p addr w = false) :
    route p addr w = .memory (accessBytes addr w) :=
  if_neg (Bool.eq_false_iff.1 h)

/-- An access that starts in a window at a multiple of 256 has an aligned offset only if its address is aligned. -/
theorem aligned_of_offset_aligned {p : Platform} {addr : Word} (hbase : p.mmioBase.toNat % 256 = 0)
    (hin : p.window.has addr.toNat = true) (hoffset : (addr.toNat - p.mmioBase.toNat) % 4 = 0) : addr.toNat % 4 = 0 := by
  obtain ⟨hle, -⟩ := (has_iff _ _).1 hin
  simp only [Platform.window] at hle
  omega

/-- A narrow or misaligned access that touches the window reaches no register (rule R69). -/
theorem route_badRegister {p : Platform} {addr : Word} {w : Width} (hbase : p.mmioBase.toNat % 256 = 0)
    (hreach : reachesWindow p addr w = true) (hbad : w ≠ .word ∨ addr.toNat % 4 ≠ 0) :
    route p addr w = .badRegister := by
  refine (if_pos hreach).trans (if_neg fun h => ?_)
  simp only [Bool.and_eq_true, List.all_eq_true, decide_eq_true_eq] at h
  obtain ⟨⟨hall, hword⟩, hoffset⟩ := h
  obtain hnarrow | hmisaligned := hbad
  · exact hnarrow hword
  · exact hmisaligned (aligned_of_offset_aligned hbase (hall _ (toNat_mem_accessBytes addr w)) hoffset)

/-- The step of a host write outside the register window. -/
theorem step_store {s : State} {addr : Word} {w : Width} {v : Word} {rest : List Event}
    (hout : reachesWindow s.platform addr w = false) (hp : s.pending = .host (.store addr w v) :: rest) :
    step s = storeMemory (accessBytes addr w) v (s.setPending rest) := by
  rw [step_cons hp]
  simp [deliver, hostOp, route_memory hout]

/-- The step of a host read outside the register window. -/
theorem step_load {s : State} {addr : Word} {w : Width} {rest : List Event}
    (hout : reachesWindow s.platform addr w = false) (hp : s.pending = .host (.load addr w) :: rest) :
    step s = loadMemory (accessBytes addr w) (s.setPending rest) := by
  rw [step_cons hp]
  simp [deliver, hostOp, route_memory hout]

/-- Settles O50: the access is routed to no register, whether it writes or reads. -/
theorem badRegisterAccessIsAHazard : Obligations.BadRegisterAccessIsAHazard := by
  intro s addr w v rest hbase hreach hbad hp
  have hroute := route_badRegister hbase hreach hbad
  obtain hp | hp := hp
  all_goals
    rw [step_cons hp]
    simp [deliver, hostOp, hroute]

/-! ### Host writes of memory -/

/-- A write that touches a lent byte is HostHazard (rules R78, R294). -/
theorem storeMemory_lent {bytes : List Nat} {s : State} {a : Nat} (ha : a ∈ bytes) (hlent : s.lent a = true) (v : Word) :
    storeMemory bytes v s = .fault (.hostHazard .ownership) :=
  if_pos (List.any_eq_true.2 ⟨a, ha, hlent⟩)

/-- A write that touches no lent byte stores its bytes (rule R62). -/
theorem storeMemory_free {bytes : List Nat} {s : State} (hfree : ∀ a ∈ bytes, s.lent a = false) (v : Word) :
    storeMemory bytes v s = .next ((s.setMem (storeBytes s.mem bytes v)).markDirty bytes) :=
  if_neg (by simpa using hfree)

/-- The invariant holds the ranges of the running command lent to the engine (rule R294). -/
theorem lent_of_running {s : State} {i : Instr} {a : Nat} (hinv : s.inv = true) (hrun : s.phase = .run)
    (hv : validate s.lat = .accept i) (ha : (readRange i s.lat).has a = true ∨ (writeRange i s.lat).has a = true) :
    s.lent a = true := by
  obtain ⟨-, hdevice, -⟩ := (inv_iff s).1 hinv
  obtain ⟨j, hj⟩ := hdevice.runningCommand hrun
  obtain rfl : i = j := Verdict.accept.inj (hv.symm.trans hj.accepted)
  exact (lent_iff s a).2 ⟨claimOf i s.lat, .inl hj.lent, ha⟩

/-- Settles O51: the byte is lent, so that the store is refused. -/
theorem hostWriteToABusyBufferIsAHazard : Obligations.HostWriteToABusyBufferIsAHazard := by
  intro s i addr w v rest hinv hrun hv hp hout ⟨a, ha, hrange⟩
  have hlent : (s.setPending rest).lent a = true := lent_of_running hinv hrun hv hrange
  rw [step_store hout hp, storeMemory_lent ha hlent]

/-- The bytes of a word shifted down by a byte are the word's bytes from the second on. -/
theorem byteOfWord_shiftRight (v : Word) (k : Nat) : byteOfWord (v >>> 8) k = byteOfWord v (k + 1) := by
  unfold byteOfWord
  ext j hj
  simp only [BitVec.getElem_extractLsb', BitVec.getLsbD_ushiftRight]
  congr 1
  omega

/-- A store to distinct addresses leaves byte `k` of the value at the `k`-th of them (rule R62). -/
theorem read_storeBytes (m : Memory) {bytes : List Nat} (hnodup : bytes.Nodup) (v : Word) (k : Nat)
    (hk : k < bytes.length) : (storeBytes m bytes v).read bytes[k] = byteOfWord v k := by
  induction bytes generalizing m v k with
  | nil => exact absurd hk (Nat.not_lt_zero k)
  | cons a rest ih =>
    obtain ⟨ha, hrest⟩ := List.nodup_cons.1 hnodup
    cases k with
    | zero =>
      rw [storeBytes, List.getElem_cons_zero, read_storeBytes_other _ _ _ _ ha, Memory.read_write_same]
    | succ k =>
      rw [storeBytes, List.getElem_cons_succ, ih _ hrest, byteOfWord_shiftRight]

/-- Settles O60: the store writes distinct bytes, and recording them changes only the record of the host. -/
theorem hostStoresReachMemory : Obligations.HostStoresReachMemory := by
  intro s addr w v rest hout hp hfree
  refine ⟨_, (step_store hout hp).trans (storeMemory_free (s := s.setPending rest) hfree v), fun k hk => ?_, fun a ha => ?_, ?_⟩
  · have hk' : k < (accessBytes addr w).length := by rwa [length_accessBytes]
    have hread := read_storeBytes s.mem (nodup_accessBytes addr w) v k hk'
    rw [getElem_accessBytes] at hread
    simpa using hread
  · simpa using read_storeBytes_other s.mem _ v a ha
  · simp

/-! ### Host reads of memory -/

/-- A read that touches no lent output and no output still to be invalidated returns memory's bytes (rules R62, R78). -/
theorem loadMemory_free {bytes : List Nat} {s : State}
    (hfree : ∀ a ∈ bytes, s.lentForWriting a = false ∧ covered s.host.stale a = false) :
    loadMemory bytes s = .next ((s.returned (littleEndian (bytes.map s.mem.read))).draw 1) := by
  have hbytes : bytes.map (hostByte s) = bytes.map s.mem.read :=
    List.map_congr_left fun a ha => by simp [hostByte, (hfree a ha).1]
  have hstale : ¬bytes.any (fun a => covered s.host.stale a && !s.lentForWriting a) = true := by
    simp only [List.any_eq_true, not_exists, not_and]
    intro a ha
    simp [(hfree a ha).2]
  rw [← hbytes]
  exact if_neg hstale

theorem byteOfWord_littleEndian_zero (b : Byte) (rest : List Byte) : byteOfWord (littleEndian (b :: rest)) 0 = b := by
  unfold byteOfWord littleEndian
  ext j hj
  simp [BitVec.getElem_extractLsb', hj, show j < 32 by omega]

theorem byteOfWord_littleEndian_succ (b : Byte) (rest : List Byte) {k : Nat} (hk : k + 1 < 4) :
    byteOfWord (littleEndian (b :: rest)) (k + 1) = byteOfWord (littleEndian rest) k := by
  unfold byteOfWord
  rw [littleEndian]
  ext j hj
  have hhigh : b.getLsbD (8 * (k + 1) + j) = false := BitVec.getLsbD_of_ge _ _ (by omega)
  have hshift : 8 * (k + 1) + j - 8 = 8 * k + j := by omega
  simp only [BitVec.getElem_extractLsb', BitVec.getLsbD_or, BitVec.getLsbD_setWidth, BitVec.getLsbD_shiftLeft, hhigh, hshift,
    show 8 * (k + 1) + j < 32 by omega, show ¬8 * (k + 1) + j < 8 by omega]
  simp

/-- The bytes of a little-endian word are the listed ones, and 0 after them (rule R62). -/
theorem byteOfWord_littleEndian (bytes : List Byte) {k : Nat} (hk : k < 4) :
    byteOfWord (littleEndian bytes) k = bytes.getD k 0#8 := by
  induction bytes generalizing k with
  | nil => simp [littleEndian, byteOfWord]
  | cons b rest ih =>
    cases k with
    | zero => exact byteOfWord_littleEndian_zero b rest
    | succ k => rw [byteOfWord_littleEndian_succ b rest hk, ih (by omega), List.getD_cons_succ]

/-- Settles O59: no byte of the access is a free byte, and the read changes only its record. -/
theorem hostReadsMemory : Obligations.HostReadsMemory := by
  intro s addr w rest hout hp hfree
  refine ⟨_, _, (step_load hout hp).trans (loadMemory_free hfree), rfl, fun k hk => ?_, rfl, rfl, rfl, rfl, rfl, rfl, rfl, rfl,
    rfl, rfl, rfl, rfl, rfl⟩
  rw [byteOfWord_littleEndian _ hk, List.getD_eq_getElem?_getD, List.getElem?_map]
  split
  · rename_i hkw
    rw [List.getElem?_eq_getElem (by rwa [length_accessBytes]), getElem_accessBytes]
    rfl
  · rename_i hkw
    rw [List.getElem?_eq_none (by rw [length_accessBytes]; omega)]
    rfl

/-! ### Register reads -/

/-- The step of the host's 32-bit read of a register (rules R98, R239). -/
theorem step_rd {s : State} {r : Reg} {rest : List Event} (hbase : s.platform.mmioBase.toNat % 256 = 0)
    (h : s.pending = rd s.platform r :: rest) : step s = .next (loadRegister (offsetOf r) (s.setPending rest)) := by
  rw [step_cons h]
  simp [rd, deliver, hostOp, route_offsetOf hbase]

theorem readOffset_offsetOf (r : Reg) (s : State) : readOffset (offsetOf r) s = readReg r s := by
  simp [readOffset]

/-- No register shows the record of the host or the schedule. -/
theorem readReg_setHost_setPending (q : Reg) (s : State) (rest : List Event) (h : HostView) :
    readReg q ((s.setPending rest).setHost h) = readReg q s := by
  cases q <;> rfl

/-- A register read records the register's value, and changes nothing but the record of the host. -/
theorem loadRegister_offsetOf (r : Reg) (s : State) :
    ∃ h : HostView, loadRegister (offsetOf r) s = s.setHost h ∧ h.lastRead = some (readReg r s) := by
  obtain hl | ⟨-, hl⟩ := loadRegister_cases (offsetOf r) s
  all_goals
    rw [readOffset_offsetOf] at hl
    exact ⟨_, hl, rfl⟩

/-- Settles O54: the read reaches its register, and what it changes is the record of the host only. -/
theorem registerReadsHaveNoEffect : Obligations.RegisterReadsHaveNoEffect := by
  intro s r rest hbase hp
  obtain ⟨h, hload, hlast⟩ := loadRegister_offsetOf r (s.setPending rest)
  refine ⟨(s.setPending rest).setHost h, by rw [step_rd hbase hp, hload], hlast.trans ?_,
    fun q => readReg_setHost_setPending q s rest h, rfl, rfl, rfl, rfl, rfl⟩
  exact congrArg some (readReg_setHost_setPending r s rest s.host)

end Sys2Proof.Machine
end

section
/-! What a command's pseudocode depends on (rules R67, R79): two memories that agree on the read range are made to agree on the
write range. -/

namespace Sys2Proof.Machine

/-! ### Dependence on a range, and how it composes -/

/-- Two memories hold the same bytes in a range. -/
def AgreeOn (R : Region) (m n : Memory) : Prop := ∀ a, R.has a = true → m.read a = n.read a

/-- A change of memory that depends on no byte outside `R`: from memories that agree on `R` it makes memories that agree
at every address of `W`, and still agree wherever they did. -/
def ReadsOnly (R : Region) (W : Nat → Prop) (f : Memory → Memory) : Prop :=
  ∀ m n, AgreeOn R m n → ∀ a, W a ∨ m.read a = n.read a → (f m).read a = (f n).read a

section
variable {R : Region} {V W : Nat → Prop} {f g : Memory → Memory}

theorem ReadsOnly.agreeOn (hf : ReadsOnly R W f) {m n : Memory} (h : AgreeOn R m n) : AgreeOn R (f m) (f n) :=
  fun a ha => hf m n h a (.inr (h a ha))

theorem ReadsOnly.weaken (hf : ReadsOnly R W f) (hVW : ∀ a, V a → W a) : ReadsOnly R V f :=
  fun m n h a ha => hf m n h a (ha.imp_left (hVW a))

/-- In the range that is read the memories agree from the start. -/
theorem ReadsOnly.inPlace (hf : ReadsOnly R W f) : ReadsOnly R (fun a => R.has a = true) f :=
  fun m n h a ha => hf m n h a (.inr (ha.elim (h a) id))

theorem readsOnly_id : ReadsOnly R (fun a => R.has a = true) id := fun _ _ h a ha => ha.elim (h a) id

theorem ReadsOnly.comp (hf : ReadsOnly R V f) (hg : ReadsOnly R W g) :
    ReadsOnly R (fun a => V a ∨ W a) (fun m => g (f m)) := by
  intro m n h a ha
  refine hg _ _ (hf.agreeOn h) a ?_
  obtain (hV | hW) | hread := ha
  · exact .inr (hf m n h a (.inl hV))
  · exact .inl hW
  · exact .inr (hf m n h a (.inr hread))

/-- A change that first computes a value from the range, and then depends on the range for every such value. -/
theorem ReadsOnly.of_value {β : Type} {val : Memory → β} {k : β → Memory → Memory}
    (hval : ∀ m n, AgreeOn R m n → val m = val n) (hk : ∀ v, ReadsOnly R W (k v)) :
    ReadsOnly R W (fun m => k (val m) m) := by
  intro m n h
  simp only [hval m n h]
  exact hk (val n) m n h

end

theorem ReadsOnly.foldl {α : Type} {R : Region} {W : α → Nat → Prop} {f : Memory → α → Memory} {l : List α}
    (hf : ∀ x ∈ l, ReadsOnly R (W x) (fun m => f m x)) :
    ReadsOnly R (fun a => ∃ x ∈ l, W x a) (fun m => l.foldl f m) := by
  induction l with
  | nil =>
    intro m n _ a ha
    exact ha.resolve_left fun ⟨_, hx, _⟩ => List.not_mem_nil hx
  | cons x rest ih =>
    have hrest := ih fun y hy => hf y (List.mem_cons_of_mem x hy)
    exact ((hf x List.mem_cons_self).comp hrest).weaken fun a => by simp

/-- A loop over changes that work in place. -/
theorem ReadsOnly.foldl_inPlace {α : Type} {R : Region} {f : Memory → α → Memory} {l : List α}
    (hf : ∀ x ∈ l, ReadsOnly R (fun a => R.has a = true) (fun m => f m x)) :
    ReadsOnly R (fun a => R.has a = true) (fun m => l.foldl f m) :=
  (ReadsOnly.foldl hf).inPlace

/-- The write of a given byte. -/
theorem readsOnly_write_const (R : Region) (x : Nat) (v : Byte) : ReadsOnly R (fun a => a = x) (fun m => m.write x v) := by
  intro m n _ a ha
  simp only [Memory.read_write]
  split
  · rfl
  · rename_i hne
    exact ha.resolve_left hne

/-- The write of a byte that is computed from the range. -/
theorem readsOnly_write {R : Region} {val : Memory → Byte} (hval : ∀ m n, AgreeOn R m n → val m = val n) (x : Nat) :
    ReadsOnly R (fun a => a = x) (fun m => m.write x (val m)) :=
  ReadsOnly.of_value hval (readsOnly_write_const R x)

theorem readsOnly_write32_const (R : Region) (x : Nat) (v : Word) :
    ReadsOnly R (fun a => x ≤ a ∧ a < x + 4) (fun m => m.write32 x v) := by
  intro m n _ a ha
  simp only [Memory.read_write32]
  split
  · rfl
  · rename_i hne
    exact ha.resolve_left hne

/-- The write of a word that is computed from the range. -/
theorem readsOnly_write32 {R : Region} {val : Memory → Word} (hval : ∀ m n, AgreeOn R m n → val m = val n) (x : Nat) :
    ReadsOnly R (fun a => x ≤ a ∧ a < x + 4) (fun m => m.write32 x (val m)) :=
  ReadsOnly.of_value hval (readsOnly_write32_const R x)

/-! ### GRAY -/

theorem readsOnly_grayMemory (aaw : Bool) (p : Params) :
    ReadsOnly (readRange (.gray aaw) p) (fun a => (writeRange (.gray aaw) p).has a = true) (grayMemory aaw p) := by
  refine (ReadsOnly.foldl fun i hi => readsOnly_write (fun m n h => ?_) (p.dst.toNat + i)).weaken fun a ha => ?_
  · have hi := List.mem_range.1 hi
    have hchannel : ∀ c < 4, (readRange (.gray aaw) p).has (p.src.toNat + 4 * i + c) = true := fun c hc =>
      (has_iff _ _).2 ⟨by simp only [readRange]; omega, by simp only [readRange]; omega⟩
    rw [h (p.src.toNat + 4 * i) (hchannel 0 (by decide)), h _ (hchannel 1 (by decide)), h _ (hchannel 2 (by decide)),
      h _ (hchannel 3 (by decide))]
  · obtain ⟨hle, hlt⟩ := (has_iff _ _).1 ha
    simp only [writeRange] at hle hlt
    exact ⟨a - p.dst.toNat, List.mem_range.2 (by omega), by omega⟩

/-! ### Images of bytes, worked on in place -/

/-- The bytes of a `w` by `h` image (rule R66). -/
def imageRange (src w h : Nat) : Region := { base := src, size := w * h }

theorem imageRange_has_pixel (src : Nat) {w h x y : Nat} (hx : x < w) (hy : y < h) :
    (imageRange src w h).has (byteAddr src w x y) = true := by
  have := pixel_lt hx hy
  exact (has_iff _ _).2 ⟨Nat.le_add_right _ _, Nat.add_lt_add_left this _⟩

/-! ### THRESH -/

theorem readsOnly_threshMemory (p : Params) :
    ReadsOnly (readRange .thresh p) (fun a => (readRange .thresh p).has a = true) (threshMemory p) := by
  refine ReadsOnly.foldl_inPlace fun i hi => (readsOnly_write (fun m n h => ?_) (p.src.toNat + i)).inPlace
  have hpixel : (readRange .thresh p).has (p.src.toNat + i) = true :=
    (has_iff _ _).2 ⟨Nat.le_add_right _ _, Nat.add_lt_add_left (List.mem_range.1 hi) _⟩
  rw [h _ hpixel]

/-! ### DIFFUSE -/

/-- A spread depends on its target, where that exists. -/
theorem readsOnly_spreadIf {R : Region} {cond : Bool} {addr : Nat} (e w : Int)
    (htarget : cond = true → R.has addr = true) :
    ReadsOnly R (fun a => R.has a = true) (spreadIf cond addr e w) := by
  cases cond with
  | false => exact readsOnly_id
  | true => exact (readsOnly_write (fun m n h => by rw [h _ (htarget rfl)]) addr).inPlace

/-- The visit of a pixel that holds the byte `v`. -/
def diffuseVisit (src w h x y : Nat) (v : Byte) (m : Memory) : Memory :=
  let a := byteAddr src w x y
  let e := quantError v
  spreadIf (decide (y + 1 < h) && decide (x + 1 < w)) (a + w + 1) e 1
    (spreadIf (decide (y + 1 < h)) (a + w) e 5
      (spreadIf (decide (y + 1 < h) && decide (1 ≤ x)) (a + w - 1) e 3
        (spreadIf (decide (x + 1 < w)) (a + 1) e 7 (m.write a (quantize v)))))

theorem diffuseAt_eq_visit (src w h x y : Nat) (m : Memory) :
    diffuseAt src w h x y m = diffuseVisit src w h x y (m.read (byteAddr src w x y)) m := rfl

section
variable (src : Nat) {w h x y : Nat}

/-! The four targets of a spread are pixels (rule R153). -/

theorem byteAddr_east : byteAddr src w x y + 1 = byteAddr src w (x + 1) y := by
  simp only [byteAddr]; omega

theorem byteAddr_southwest (hx : 1 ≤ x) : byteAddr src w x y + w - 1 = byteAddr src w (x - 1) (y + 1) := by
  simp only [byteAddr, Nat.add_mul]; omega

theorem byteAddr_south : byteAddr src w x y + w = byteAddr src w x (y + 1) := by
  simp only [byteAddr, Nat.add_mul]; omega

theorem byteAddr_southeast : byteAddr src w x y + w + 1 = byteAddr src w (x + 1) (y + 1) := by
  simp only [byteAddr, Nat.add_mul]; omega

theorem readsOnly_diffuseVisit (hx : x < w) (hy : y < h) (v : Byte) :
    ReadsOnly (imageRange src w h) (fun a => (imageRange src w h).has a = true) (diffuseVisit src w h x y v) := by
  have heast := readsOnly_spreadIf (R := imageRange src w h) (cond := decide (x + 1 < w)) (addr := byteAddr src w x y + 1)
    (quantError v) 7 fun hc => by
      rw [byteAddr_east]
      exact imageRange_has_pixel src (of_decide_eq_true hc) hy
  have hsouthwest := readsOnly_spreadIf (R := imageRange src w h) (cond := decide (y + 1 < h) && decide (1 ≤ x))
    (addr := byteAddr src w x y + w - 1) (quantError v) 3 fun hc => by
      simp only [Bool.and_eq_true, decide_eq_true_eq] at hc
      rw [byteAddr_southwest src hc.2]
      exact imageRange_has_pixel src (by omega) hc.1
  have hsouth := readsOnly_spreadIf (R := imageRange src w h) (cond := decide (y + 1 < h))
    (addr := byteAddr src w x y + w) (quantError v) 5 fun hc => by
      rw [byteAddr_south]
      exact imageRange_has_pixel src hx (of_decide_eq_true hc)
  have hsoutheast := readsOnly_spreadIf (R := imageRange src w h) (cond := decide (y + 1 < h) && decide (x + 1 < w))
    (addr := byteAddr src w x y + w + 1) (quantError v) 1 fun hc => by
      simp only [Bool.and_eq_true, decide_eq_true_eq] at hc
      rw [byteAddr_southeast]
      exact imageRange_has_pixel src hc.2 hc.1
  have hwrite := readsOnly_write_const (imageRange src w h) (byteAddr src w x y) (quantize v)
  exact ((((hwrite.comp heast).comp hsouthwest).comp hsouth).comp hsoutheast).inPlace

theorem readsOnly_diffuseAt (hx : x < w) (hy : y < h) :
    ReadsOnly (imageRange src w h) (fun a => (imageRange src w h).has a = true) (diffuseAt src w h x y) :=
  ReadsOnly.of_value (val := fun m => m.read (byteAddr src w x y)) (k := diffuseVisit src w h x y)
    (fun _ _ hmn => hmn _ (imageRange_has_pixel src hx hy)) (readsOnly_diffuseVisit src hx hy)

end

theorem readsOnly_diffuseMemory (p : Params) :
    ReadsOnly (readRange .diffuse p) (fun a => (readRange .diffuse p).has a = true) (diffuseMemory p) :=
  ReadsOnly.foldl_inPlace fun _ hy => ReadsOnly.foldl_inPlace fun _ hx =>
    readsOnly_diffuseAt p.src.toNat (List.mem_range.1 hx) (List.mem_range.1 hy)

/-! ### HALFTONE -/

theorem blockSum_congr {w a : Nat} {m n : Memory}
    (h : ∀ yy < 4, ∀ xx < 4, m.read (a + yy * w + xx) = n.read (a + yy * w + xx)) : blockSum w a m = blockSum w a n := by
  unfold blockSum
  refine congrArg List.sum (List.flatMap_congr fun yy hy => List.map_congr_left fun xx hx => ?_)
  rw [h yy ((mem_blockOffsets yy).1 hy) xx ((mem_blockOffsets xx).1 hx)]

/-- The dots of one block for a given radius (rule R176). -/
def drawDots (w a : Nat) (r : F64) (m : Memory) : Memory :=
  blockOffsets.foldl
    (fun m yy => blockOffsets.foldl (fun m xx => m.write (a + yy * w + xx) (blackOrWhite (halftoneWhite r xx yy))) m) m

theorem halftoneBlock_eq_drawDots (w a : Nat) (m : Memory) :
    halftoneBlock w a m = drawDots w a (dotRadius (blockSum w a m)) m := rfl

theorem readsOnly_drawDots (R : Region) (w a : Nat) (r : F64) :
    ReadsOnly R (fun a => R.has a = true) (drawDots w a r) :=
  ReadsOnly.foldl_inPlace fun _ _ => ReadsOnly.foldl_inPlace fun _ _ => (readsOnly_write_const R _ _).inPlace

/-- A block depends on its own 16 bytes (rule R172). -/
theorem readsOnly_halftoneBlock {R : Region} {w a : Nat}
    (hblock : ∀ yy < 4, ∀ xx < 4, R.has (a + yy * w + xx) = true) :
    ReadsOnly R (fun a => R.has a = true) (halftoneBlock w a) :=
  ReadsOnly.of_value (val := fun m => dotRadius (blockSum w a m)) (k := drawDots w a)
    (fun _ _ h => congrArg dotRadius (blockSum_congr fun yy hy xx hx => h _ (hblock yy hy xx hx)))
    (readsOnly_drawDots R w a)

/-- The pixels of a complete block lie in the image (rule R171). -/
theorem imageRange_has_block (src : Nat) {w h xb yb xx yy : Nat} (hxb : xb < w / 4) (hyb : yb < h / 4) (hxx : xx < 4)
    (hyy : yy < 4) : (imageRange src w h).has (byteAddr src w (4 * xb) (4 * yb) + yy * w + xx) = true := by
  have haddr : byteAddr src w (4 * xb) (4 * yb) + yy * w + xx = byteAddr src w (4 * xb + xx) (4 * yb + yy) := by
    simp only [byteAddr, Nat.add_mul]; omega
  rw [haddr]
  exact imageRange_has_pixel src (by omega) (by omega)

theorem readsOnly_halftoneBlocks (p : Params) :
    ReadsOnly (readRange .halftone p) (fun a => (readRange .halftone p).has a = true) (halftoneBlocks p) :=
  ReadsOnly.foldl_inPlace fun _ hyb => ReadsOnly.foldl_inPlace fun _ hxb =>
    readsOnly_halftoneBlock fun _ hyy _ hxx =>
      imageRange_has_block p.src.toNat (List.mem_range.1 hxb) (List.mem_range.1 hyb) hxx hyy

/-- The remainder reads nothing (rule R175). -/
theorem readsOnly_halftoneRemainder (R : Region) (p : Params) :
    ReadsOnly R (fun a => R.has a = true) (halftoneRemainder p) := by
  refine ReadsOnly.foldl_inPlace fun y _ => ReadsOnly.foldl_inPlace fun x _ => ?_
  split
  · exact (readsOnly_write_const R _ _).inPlace
  · exact readsOnly_id

theorem readsOnly_halftoneMemory (p : Params) :
    ReadsOnly (readRange .halftone p) (fun a => (readRange .halftone p).has a = true) (halftoneMemory p) :=
  ((readsOnly_halftoneBlocks p).comp (readsOnly_halftoneRemainder _ p)).inPlace

/-! ### PACK -/

theorem packByte_congr {src left : Nat} {m n : Memory} (h : ∀ d < left, m.read (src + d) = n.read (src + d)) :
    packByte src left m = packByte src left n := by
  unfold packByte
  refine congrArg (· ^^^ 0xFF#8) (List.foldl_ext _ _ _ fun pre d _ => ?_)
  by_cases hd : d < left
  · rw [h d hd]
  · simp [hd]

theorem readsOnly_packMemory (p : Params) :
    ReadsOnly (readRange .pack p) (fun a => (writeRange .pack p).has a = true) (packMemory p) := by
  refine (ReadsOnly.foldl fun k _ => readsOnly_write (fun m n h => ?_) (p.dst.toNat + k)).weaken fun a ha => ?_
  · refine packByte_congr fun d hd => h _ ((has_iff _ _).2 ?_)
    simp only [readRange]
    omega
  · obtain ⟨hle, hlt⟩ := (has_iff _ _).1 ha
    simp only [writeRange] at hle hlt
    exact ⟨a - p.dst.toNat, List.mem_range.2 (by omega), by omega⟩

/-! ### ROTATE -/

theorem read32_congr {m n : Memory} {x : Nat} (h : ∀ k < 4, m.read (x + k) = n.read (x + k)) :
    m.read32 x = n.read32 x := by
  have h0 : m.read x = n.read x := h 0 (by decide)
  unfold Memory.read32
  rw [h0, h 1 (by decide), h 2 (by decide), h 3 (by decide)]

theorem rotateSource_lt {w h x y : Nat} (hx : x < h) (hy : y < w) : rotateSource w h x y < w * h :=
  pixel_lt hy (by omega)

/-- Each byte below `4 * (w * h)` belongs to the pixel of an output row and column (rule R210). -/
theorem exists_row_column {w h j : Nat} (hj : j < 4 * (w * h)) :
    ∃ y < w, ∃ x < h, 4 * (y * h + x) ≤ j ∧ j < 4 * (y * h + x) + 4 := by
  have hlt : j / 4 < w * h := by omega
  have hpos : 0 < h := Nat.pos_of_ne_zero fun h0 => by simp [h0] at hlt
  refine ⟨j / 4 / h, (Nat.div_lt_iff_lt_mul hpos).2 hlt, j / 4 % h, Nat.mod_lt _ hpos, ?_⟩
  rw [Nat.div_add_mod']
  omega

theorem readsOnly_rotateMemory (p : Params) :
    ReadsOnly (readRange .rotate p) (fun a => (writeRange .rotate p).has a = true) (rotateMemory p) := by
  refine (ReadsOnly.foldl fun y hy => ReadsOnly.foldl fun x hx =>
    readsOnly_write32 (fun m n h => ?_) (p.dst.toNat + 4 * (y * p.height.toNat + x))).weaken fun a ha => ?_
  · have hsource := rotateSource_lt (List.mem_range.1 hx) (List.mem_range.1 hy)
    refine read32_congr fun k hk => h _ ((has_iff _ _).2 ?_)
    simp only [readRange, pixels]
    omega
  · obtain ⟨hle, hlt⟩ := (has_iff _ _).1 ha
    simp only [writeRange, pixels] at hle hlt
    obtain ⟨y, hy, x, hx, hbyte⟩ := exists_row_column (w := p.width.toNat) (h := p.height.toNat)
      (j := a - p.dst.toNat) (by omega)
    exact ⟨y, List.mem_range.2 hy, x, List.mem_range.2 hx, by omega⟩

/-! ### The commands as one -/

theorem readsOnly_commandMemory {i : Instr} (hc : Request.isCommand i = true) (p : Params) :
    ReadsOnly (readRange i p) (fun a => (writeRange i p).has a = true) (commandMemory i p) := by
  cases i with
  | gray aaw => exact readsOnly_grayMemory aaw p
  | thresh => exact readsOnly_threshMemory p
  | diffuse => exact readsOnly_diffuseMemory p
  | halftone => exact readsOnly_halftoneMemory p
  | pack => exact readsOnly_packMemory p
  | rotate => exact readsOnly_rotateMemory p
  | start _ | startBusy _ | srst | clear _ _ _ => exact absurd hc Bool.false_ne_true

/-- Settles O16: both runs complete, because no byte of memory decides whether an access fails, and each leaves what the
command's pseudocode makes of its memory. -/
theorem commandsReadOnlyTheirRange : Obligations.CommandsReadOnlyTheirRange := by
  intro i s m hc ⟨hrun, _, hbus⟩ hagree
  refine ⟨_, _, (exec_command hc s).trans (runCommand_completes i _ hrun hbus),
    (exec_command hc (s.setMem m)).trans (runCommand_completes i _ (s := s.setMem m) hrun hbus), fun a ha => ?_⟩
  simpa using readsOnly_commandMemory hc s.lat m s.mem hagree a (.inl ha)

end Sys2Proof.Machine
end

section
/-! The encoding (rules R62, R90 to R99, R240): which words decode to an instruction, said once for each place a word is presented. -/

namespace Sys2Proof.Machine

/-! ### Words, bytes and bits -/

/-- A word's four bytes, put together again, are the word (rule R62). -/
@[simp] theorem wordOfBytes_byteOfWord (w : Word) :
    wordOfBytes (byteOfWord w 0) (byteOfWord w 1) (byteOfWord w 2) (byteOfWord w 3) = w := by
  unfold wordOfBytes byteOfWord
  ext k hk
  simp only [BitVec.getElem_append, BitVec.getElem_extractLsb']
  split_ifs <;> rw [← BitVec.getLsbD_eq_getElem] <;> congr 1 <;> omega

/-- The decoder on a word's bytes in bus order is the decoder on the word (rule R62). -/
theorem decodeBytes_byteOfWord (port : Port) (w : Word) :
    decodeBytes port [byteOfWord w 0, byteOfWord w 1, byteOfWord w 2, byteOfWord w 3] = decodeAt port w := by
  simp [decodeBytes]

theorem getLsbD_bitAt {k : Nat} (hk : k < 32) (b : Bool) (j : Nat) : (bitAt k b).getLsbD j = (b && decide (j = k)) := by
  cases b with
  | false => simp [bitAt]
  | true =>
    simp only [bitAt, if_true, BitVec.getLsbD_shiftLeft, BitVec.getLsbD_one, Bool.true_and]
    grind

/-- One bit, cut out of a word. -/
theorem and_bitAt {k : Nat} (hk : k < 32) (w : Word) : w &&& bitAt k true = bitAt k (w.getLsbD k) := by
  refine BitVec.eq_of_getLsbD_eq fun j _ => ?_
  rw [BitVec.getLsbD_and, getLsbD_bitAt hk, getLsbD_bitAt hk]
  by_cases h : j = k <;> simp [h]

/-- Bits under a mask do not show outside it. -/
theorem or_and_not_mask (e noise mask : Word) : (e ||| (noise &&& mask)) &&& ~~~mask = e &&& ~~~mask := by
  ext j hj
  cases hm : mask[j] <;> simp [hm]

/-- Turning bits under a mask over does not show outside it. -/
theorem xor_and_not_mask (w mask : Word) : (w ^^^ mask) &&& ~~~mask = w &&& ~~~mask := by
  ext j hj
  cases hm : mask[j] <;> simp [hm]

/-- A word is what it holds outside a mask, with what it holds under it. -/
theorem eq_or_of_and_not_mask {w e mask : Word} (h : w &&& ~~~mask = e) : w = e ||| (w &&& mask) := by
  subst h
  ext j hj
  cases hm : mask[j] <;> simp [hm]

/-- The encoder leaves every ignored bit 0. -/
theorem encode_and_not_ignoredBits (i : Instr) : encode i &&& ~~~ignoredBits i = encode i := by
  cases i with
  | gray aaw | start aaw | startBusy aaw => cases aaw <;> decide
  | thresh | diffuse | halftone | pack | rotate | srst => decide
  | clear done err ign => revert done err ign; decide

/-! ### Command words -/

/-- The word with reserved bits 0, a given OP and a given bit 8 (rules R91, R92, R93). -/
def commandWord (op : BitVec 4) (aaw : Bool) : Word := op.setWidth 32 ||| bitAt 8 aaw

/-- Without reserved bits a word is its OP and its bit 8. -/
theorem eq_commandWord {c : Word} (h4 : c.extractLsb' 4 4 = 0#4) (h9 : c.extractLsb' 9 23 = 0#23) :
    c = commandWord (c.extractLsb' 0 4) (c.getLsbD 8) := by
  refine BitVec.eq_of_getLsbD_eq fun j hj => ?_
  have hlow : 4 ≤ j → j < 8 → c.getLsbD j = false := fun h h' => by
    simpa [show j - 4 < 4 by omega, show 4 + (j - 4) = j by omega] using congrArg (·.getLsbD (j - 4)) h4
  have hhigh : 9 ≤ j → c.getLsbD j = false := fun h => by
    simpa [show j - 9 < 23 by omega, show 9 + (j - 9) = j by omega] using congrArg (·.getLsbD (j - 9)) h9
  simp only [commandWord, BitVec.getLsbD_or, BitVec.getLsbD_setWidth, BitVec.getLsbD_extractLsb', Nat.zero_add,
    getLsbD_bitAt (show 8 < 32 by omega)]
  obtain h | h | h | h : j < 4 ∨ (4 ≤ j ∧ j < 8) ∨ j = 8 ∨ 9 ≤ j := by omega
  · simp [hj, h, show j ≠ 8 by omega]
  · simp [hlow h.1 h.2, show ¬j < 4 by omega, show j ≠ 8 by omega]
  · simp [h]
  · simp [hhigh h, show ¬j < 4 by omega, show j ≠ 8 by omega]

/-- A word that decodes holds no reserved bit (rule R93). -/
theorem eq_commandWord_of_decodeCommand {c : Word} {i : Instr} (h : decodeCommand c = .instr i) :
    c = commandWord (c.extractLsb' 0 4) (c.getLsbD 8) := by
  by_cases hr : c.extractLsb' 4 4 ≠ 0#4 ∨ c.extractLsb' 9 23 ≠ 0#23
  · rw [decodeCommand, if_pos hr] at h
    cases h
  · push Not at hr
    exact eq_commandWord hr.1 hr.2

/-- Of the words with reserved bits 0, OP 1 to 6 are the commands, and bit 8 is read by GRAY only (rules R91, R92, R94). -/
theorem decodeCommand_commandWord {op : BitVec 4} {aaw : Bool} {i : Instr}
    (h : decodeCommand (commandWord op aaw) = .instr i) :
    commandWord op aaw = encode i ∨ commandWord op aaw = encode i ||| ignoredBits i := by
  cases i with
  | gray b => revert op aaw b; decide
  | thresh | diffuse | halftone | pack | rotate => revert op aaw; decide
  | start _ | startBusy _ | srst | clear _ _ _ => exact absurd (decodeCommand_isCommand h) Bool.false_ne_true

/-- The accepted command words (rules R96, R97): each command's own word, and that word with the ignored bit set. -/
theorem decodeCommand_eq_instr_iff (c : Word) (i : Instr) :
    decodeCommand c = .instr i ↔ Request.isCommand i = true ∧ (c = encode i ∨ c = encode i ||| ignoredBits i) := by
  constructor
  · intro h
    have hc := eq_commandWord_of_decodeCommand h
    refine ⟨decodeCommand_isCommand h, ?_⟩
    rw [hc] at h ⊢
    exact decodeCommand_commandWord h
  · rintro ⟨hi, rfl | rfl⟩ <;> cases i with
    | gray aaw => cases aaw <;> decide
    | thresh | diffuse | halftone | pack | rotate => decide
    | start _ | startBusy _ | srst | clear _ _ _ => exact absurd hi Bool.false_ne_true

/-- The decoder's rows as masks (rule R96): a word is a command's when it is the command's own word outside the ignored bits. -/
theorem decodeCommand_eq_instr_iff_and {i : Instr} (hi : Request.isCommand i = true) (c : Word) :
    decodeCommand c = .instr i ↔ c &&& ~~~ignoredBits i = encode i := by
  rw [decodeCommand_eq_instr_iff]
  constructor
  · rintro ⟨-, rfl | rfl⟩
    · exact encode_and_not_ignoredBits i
    · simpa [encode_and_not_ignoredBits] using or_and_not_mask (encode i) (ignoredBits i) (ignoredBits i)
  · intro h
    have hc := eq_or_of_and_not_mask h
    refine ⟨hi, ?_⟩
    cases i with
    | gray _ => left; simpa [ignoredBits] using hc
    | thresh | diffuse | halftone | pack | rotate =>
      rw [ignoredBits, show 0x00000100#32 = bitAt 8 true from rfl, and_bitAt (by decide)] at hc
      cases hb : c.getLsbD 8 <;> rw [hb] at hc
      · exact .inl hc
      · exact .inr hc
    | start _ | startBusy _ | srst | clear _ _ _ => exact absurd hi Bool.false_ne_true

/-! ### Control words -/

/-- The START rows (rules R231, R236, R240): SRST is 0, START is 1, and bit 2 is IRQ_EN. -/
theorem decodeCtrl_eq_start_iff (busy irqEn : Bool) (v : Word) :
    decodeCtrl busy v = .instr (if busy then .startBusy irqEn else .start irqEn) ↔
      v &&& 0x00000007#32 = 0x00000001#32 ||| bitAt 2 irqEn := by
  have hmask : v &&& 0x00000007#32 = bitAt 0 (v.getLsbD 0) ||| bitAt 1 (v.getLsbD 1) ||| bitAt 2 (v.getLsbD 2) := by
    simp only [← and_bitAt (show 0 < 32 by decide), ← and_bitAt (show 1 < 32 by decide), ← and_bitAt (show 2 < 32 by decide),
      ← BitVec.and_or_distrib_left]
    rfl
  rw [hmask, decodeCtrl]
  generalize v.getLsbD 0 = start, v.getLsbD 1 = srst, v.getLsbD 2 = bit2
  revert busy irqEn start srst bit2
  decide

/-- The SRST row (rules R237, R240): bit 1 alone decides. -/
theorem decodeCtrl_eq_srst_iff (busy : Bool) (v : Word) :
    decodeCtrl busy v = .instr .srst ↔ v &&& 0x00000002#32 = 0x00000002#32 := by
  rw [show 0x00000002#32 = bitAt 1 true from rfl, and_bitAt (by decide), decodeCtrl]
  generalize v.getLsbD 0 = start, v.getLsbD 1 = srst, v.getLsbD 2 = bit2
  revert busy start srst bit2
  decide

/-- The CLEAR row (rule R238): bits 1, 2 and 3 are the flags to clear. -/
theorem decodeStatus_eq_clear_iff (v : Word) (done err ign : Bool) :
    decodeStatus v = .instr (.clear done err ign) ↔
      v &&& 0x0000000E#32 = bitAt 1 done ||| bitAt 2 err ||| bitAt 3 ign := by
  have hmask : v &&& 0x0000000E#32 = bitAt 1 (v.getLsbD 1) ||| bitAt 2 (v.getLsbD 2) ||| bitAt 3 (v.getLsbD 3) := by
    simp only [← and_bitAt (show 1 < 32 by decide), ← and_bitAt (show 2 < 32 by decide), ← and_bitAt (show 3 < 32 by decide),
      ← BitVec.and_or_distrib_left]
    rfl
  rw [hmask, decodeStatus]
  generalize v.getLsbD 1 = bit1, v.getLsbD 2 = bit2, v.getLsbD 3 = bit3
  revert done err ign bit1 bit2 bit3
  decide

/-! ### Every place at once -/

/-- At its own place a word decodes to an instruction exactly when it is the encoder's word outside the bits that the
instruction ignores (rules R22, R23, R92, R96, R240). -/
theorem decodeAt_portOf_eq_instr_iff (i : Instr) (w : Word) :
    decodeAt (portOf i) w = .instr i ↔ w &&& ~~~ignoredBits i = encode i := by
  cases i with
  | gray _ | thresh | diffuse | halftone | pack | rotate => exact decodeCommand_eq_instr_iff_and rfl w
  | start irqEn => simpa [decodeAt, portOf, ignoredBits, encode] using decodeCtrl_eq_start_iff false irqEn w
  | startBusy irqEn => simpa [decodeAt, portOf, ignoredBits, encode] using decodeCtrl_eq_start_iff true irqEn w
  | srst => exact decodeCtrl_eq_srst_iff false w
  | clear done err ign => simpa [decodeAt, portOf, ignoredBits, encode] using decodeStatus_eq_clear_iff w done err ign

/-- Settles O3: the bus bytes are the word's, and noise in the ignored bits does not show outside them. -/
theorem decodeOfEncodeIsTheInstruction : Obligations.DecodeOfEncodeIsTheInstruction := by
  intro i noise
  rw [decodeBytes_byteOfWord, decodeAt_portOf_eq_instr_iff, or_and_not_mask, encode_and_not_ignoredBits]

/-- GRAY's row: outside bit 8 the word is 1, and bit 8 is alpha_as_white (rules R91, R92). -/
theorem decodeCommand_eq_gray_iff (c : Word) (aaw : Bool) :
    decodeCommand c = .instr (.gray aaw) ↔ c &&& 0xFFFFFEFF#32 = 0x00000001#32 ∧ aaw = c.getLsbD 8 := by
  rw [decodeCommand_eq_instr_iff]
  constructor
  · rintro ⟨-, rfl | rfl⟩ <;> cases aaw <;> decide
  · rintro ⟨hrow, rfl⟩
    have hc := eq_or_of_and_not_mask (mask := 0x00000100#32) hrow
    rw [show 0x00000100#32 = bitAt 8 true from rfl, and_bitAt (by decide)] at hc
    exact ⟨rfl, .inl hc⟩

/-- Rule R97's list is the commands' own words and those words with bit 8 set. -/
theorem exists_decodeCommand_iff (c : Word) :
    (∃ i, decodeCommand c = .instr i) ↔
      c ∈ [0x00000001#32, 0x00000002#32, 0x00000003#32, 0x00000004#32, 0x00000005#32, 0x00000006#32, 0x00000101#32,
        0x00000102#32, 0x00000103#32, 0x00000104#32, 0x00000105#32, 0x00000106#32] := by
  constructor
  · rintro ⟨i, h⟩
    obtain ⟨hi, rfl | rfl⟩ := (decodeCommand_eq_instr_iff c i).1 h <;> cases i with
    | gray aaw => cases aaw <;> decide
    | thresh | diffuse | halftone | pack | rotate => decide
    | start _ | startBusy _ | srst | clear _ _ _ => exact absurd hi Bool.false_ne_true
  · intro h
    simp only [List.mem_cons, List.not_mem_nil, or_false] at h
    obtain rfl | rfl | rfl | rfl | rfl | rfl | rfl | rfl | rfl | rfl | rfl | rfl := h
    exacts [⟨.gray false, rfl⟩, ⟨.thresh, rfl⟩, ⟨.diffuse, rfl⟩, ⟨.halftone, rfl⟩, ⟨.pack, rfl⟩, ⟨.rotate, rfl⟩,
      ⟨.gray true, rfl⟩, ⟨.thresh, rfl⟩, ⟨.diffuse, rfl⟩, ⟨.halftone, rfl⟩, ⟨.pack, rfl⟩, ⟨.rotate, rfl⟩]

/-- Validation answers ERR_ILLEGAL for a word that is no command (rules R97, R261). -/
theorem validate_illegal {p : Params} (h : ∀ i, decodeCommand p.cmd ≠ .instr i) : validate p = .reject .illegal 0#32 := by
  unfold validate
  cases hd : decodeCommand p.cmd with
  | instr i => exact absurd hd (h i)
  | reject why => rfl

/-- Settles O1, row by row. -/
theorem commandWordsMatchTheTable : Obligations.CommandWordsMatchTheTable := by
  intro c
  refine ⟨decodeCommand_eq_gray_iff c, decodeCommand_eq_instr_iff_and (i := .thresh) rfl c,
    decodeCommand_eq_instr_iff_and (i := .diffuse) rfl c, decodeCommand_eq_instr_iff_and (i := .halftone) rfl c,
    decodeCommand_eq_instr_iff_and (i := .pack) rfl c, decodeCommand_eq_instr_iff_and (i := .rotate) rfl c,
    exists_decodeCommand_iff c, ?_⟩
  rintro p rfl h
  exact validate_illegal h

/-- Settles O4: the encoder's own words decode by each instruction's round trip; SRST with START and IRQ_EN set also, by
SRST's row. -/
theorem writtenWordsDecode : Obligations.WrittenWordsDecode :=
  ⟨Laws.RoundTrip.gray false, Laws.RoundTrip.gray true, Laws.RoundTrip.thresh, Laws.RoundTrip.diffuse,
    Laws.RoundTrip.halftone, Laws.RoundTrip.pack, Laws.RoundTrip.rotate, Laws.RoundTrip.start true,
    Laws.RoundTrip.startBusy false, (decodeCtrl_eq_srst_iff true 0x00000007#32).2 rfl, Laws.RoundTrip.clear true true true⟩

end Sys2Proof.Machine
end

section
/-! The operands that a command ignores (rules R29, R92, R95): two sets of operands that say the same work to a command give the
same verdict and the same end. -/

namespace Sys2Proof.Machine

/-- Two sets of operands say the same work to a command: its pseudocode, its accesses, its ranges and its elements. -/
structure SameWork (i : Instr) (p q : Params) : Prop where
  memory : commandMemory i q = commandMemory i p
  reads : readAddrs i q = readAddrs i p
  writes : writeRange i q = writeRange i p
  elements : elements i q = elements i p

/-- The same work has the same failing accesses on every platform. -/
theorem SameWork.busFailures_eq {i : Instr} {p q : Params} (h : SameWork i p q) (pl : Platform) :
    busFailures pl i q = busFailures pl i p := by
  simp only [busFailures, writeAddrs, h.reads, h.writes]

/-- The same work ends the same way in the same state: nothing else of the latches is used. -/
theorem SameWork.exec_end {i : Instr} (hi : Request.isCommand i = true) {q : Params} {s t : State}
    (hw : SameWork i s.lat q) (h : exec i s = .next t) :
    ∃ u, exec i { s with lat := q } = .next u ∧ u.mem = t.mem ∧ u.status = t.status ∧ u.progress = t.progress ∧
      u.errAddr = t.errAddr := by
  have hbus := hw.busFailures_eq s.platform
  rw [exec_command hi] at h
  rw [exec_command hi]
  obtain ⟨hidle, rfl⟩ | ⟨hrun, hnone, rfl⟩ | ⟨hrun, hsome, rfl⟩ := runCommand_cases h
  · exact ⟨_, runCommand_idle i _ hidle, rfl, rfl, rfl, rfl⟩
  · refine ⟨_, runCommand_completes i _ hrun (hbus.trans hnone), ?_⟩
    simp [hw.memory, hw.elements]
  · refine ⟨_, runCommand_fails i _ hrun (hbus.trans_ne hsome), ?_⟩
    simp [hbus, hw.writes, hw.elements]

/-- A set of operands with the ignored ones replaced: BRIGHT, DST_ADDR, and bit 8 of the command word the other way. -/
def withIgnored (p : Params) (bright dst : Word) : Params :=
  { p with bright := bright, dst := dst, cmd := p.cmd ^^^ 0x00000100#32 }

/-- The commands other than GRAY, with what each ignores: a reducer BRIGHT and DST_ADDR, PACK and ROTATE BRIGHT (rule R95). -/
def Ignores (i : Instr) (p : Params) (dst : Word) : Prop :=
  i = .thresh ∨ i = .diffuse ∨ i = .halftone ∨ ((i = .pack ∨ i = .rotate) ∧ dst = p.dst)

/-- Bit 8 of the word of a command that ignores it can be turned over (rule R92). -/
theorem decodeCommand_xor_bit8 {c : Word} {i : Instr} (hbit : ignoredBits i = 0x00000100#32)
    (h : decodeCommand c = .instr i) : decodeCommand (c ^^^ 0x00000100#32) = .instr i := by
  have hi := decodeCommand_isCommand h
  rw [decodeCommand_eq_instr_iff_and hi, hbit] at h ⊢
  rw [xor_and_not_mask, h]

section
variable {i : Instr} {p : Params} {bright dst : Word}

theorem Ignores.ignoredBits_eq (h : Ignores i p dst) : ignoredBits i = 0x00000100#32 := by
  obtain rfl | rfl | rfl | ⟨rfl | rfl, -⟩ := h <;> rfl

theorem Ignores.sameWork (h : Ignores i p dst) : SameWork i p (withIgnored p bright dst) := by
  obtain rfl | rfl | rfl | ⟨rfl | rfl, rfl⟩ := h <;> exact ⟨rfl, rfl, rfl, rfl⟩

theorem Ignores.validate_eq (h : Ignores i p dst) (hd : decodeCommand p.cmd = .instr i) :
    validate (withIgnored p bright dst) = validate p := by
  have hd' : decodeCommand (withIgnored p bright dst).cmd = .instr i := decodeCommand_xor_bit8 h.ignoredBits_eq hd
  unfold validate
  rw [hd, hd']
  obtain rfl | rfl | rfl | ⟨rfl | rfl, rfl⟩ := h <;> rfl

end

/-- Settles O19: the other operands give the same validation and say the same work, and the same work ends the same way. -/
theorem ignoredOperandsChangeNothing : Obligations.IgnoredOperandsChangeNothing := by
  intro i p bright dst hi hd
  have h : Ignores i p dst := hi
  refine ⟨h.validate_eq hd, ?_⟩
  rintro s t rfl hexec
  exact h.sameWork.exec_end (decodeCommand_isCommand hd) hexec

end Sys2Proof.Machine
end

section
/-! How a command completes, for all six (rules R79, R234, R235). -/

namespace Sys2Proof.Machine

/-- Completion sets PROGRESS, ERR_CODE, DONE and the phase, and keeps the rest (rule R235). -/
theorem completed_complete {i : Instr} {s : State} (hn : elements i s.lat < 2 ^ 32) (m : Memory) :
    Completed i s ((complete i (s.setMem m)).markWritten (writeRange i s.lat)).forgetLatches := by
  have hprogress : (BitVec.ofNat 32 (elements i s.lat)).toNat = elements i s.lat :=
    (BitVec.toNat_ofNat ..).trans (Nat.mod_eq_of_lt hn)
  unfold Completed KeepsAllButOutcome
  simp +contextual [hprogress, State.markWritten_host]

/-- A command that runs completes in one step: memory is what its pseudocode gives, and changes in the write range only. -/
theorem exec_of_runs {i : Instr} {s : State} (hi : Request.isCommand i = true) (h : Runs i s) :
    ∃ t, exec i s = .next t ∧ Completed i s t ∧ SameOutside (writeRange i s.lat) s t ∧
      t.mem = commandMemory i s.lat s.mem := by
  obtain ⟨hrun, hvalid, hbus⟩ := h
  obtain ⟨-, hw, hh, -⟩ := validate_accept hvalid
  refine ⟨_, (exec_command hi s).trans (runCommand_completes i _ hrun hbus), completed_complete (elements_lt hw hh) _,
    fun a ha => ?_, by simp⟩
  simpa using commandMemory_other i s.lat s.mem a ha

end Sys2Proof.Machine
end

section
/-! What GRAY stores (rules R110, R117). -/

namespace Sys2Proof.Machine

/-- No address is in two ranges that do not overlap (rule R74). -/
theorem has_eq_false_of_not_overlaps {r q : Region} (h : r.overlaps q = false) {a : Nat} (ha : r.has a = true) :
    q.has a = false := by
  by_contra hq
  obtain ⟨hrlo, hrhi⟩ := (has_iff r a).1 ha
  obtain ⟨hqlo, hqhi⟩ := (has_iff q a).1 (Bool.not_eq_false _ ▸ hq)
  simp only [Region.overlaps, Bool.and_eq_false_iff, decide_eq_false_iff_not] at h
  omega

/-- A loop whose values do not depend on the bytes that it writes computes each of them from the memory it starts with. -/
theorem read_foldl_write_of_independent {addr : Nat → Nat} {val : Memory → Nat → Byte} {n : Nat} {m : Memory}
    (hinj : ∀ i j, i < n → j < n → addr i = addr j → i = j)
    (hval : ∀ m' : Memory, (∀ a, (∀ j < n, a ≠ addr j) → m'.read a = m.read a) → ∀ i < n, val m' i = val m i)
    {i : Nat} (hi : i < n) :
    ((List.range n).foldl (fun m i => m.write (addr i) (val m i)) m).read (addr i) = val m i := by
  rw [read_foldl_write addr val n hinj m i hi]
  refine hval _ (fun a ha => read_foldl_other _ _ a (fun m' j hj => ?_) m) i hi
  exact Memory.read_write_other m' _ (ha j ((List.mem_range.1 hj).trans hi))

/-- The gray value of pixel `i`, from its four bytes in memory (rules R63, R110). -/
def grayOf (aaw : Bool) (p : Params) (m : Memory) (i : Nat) : Byte :=
  grayPixel (m.read (p.src.toNat + 4 * i)) (m.read (p.src.toNat + 4 * i + 1)) (m.read (p.src.toNat + 4 * i + 2))
    (m.read (p.src.toNat + 4 * i + 3)) p.bright.toNat aaw

theorem grayMemory_eq_foldl (aaw : Bool) (p : Params) (m : Memory) :
    grayMemory aaw p m =
      (List.range (pixels p)).foldl (fun m i => m.write (p.dst.toNat + i) (grayOf aaw p m i)) m := rfl

/-- A pixel's gray value depends on the source bytes only (rules R67, R117). -/
theorem grayOf_congr (aaw : Bool) {p : Params} {m n : Memory} (h : AgreeOn (readRange (.gray aaw) p) m n) {i : Nat}
    (hi : i < pixels p) : grayOf aaw p m i = grayOf aaw p n i := by
  have hchannel : ∀ c < 4, m.read (p.src.toNat + 4 * i + c) = n.read (p.src.toNat + 4 * i + c) := fun c hc =>
    h _ ((has_iff _ _).2 ⟨by simp only [readRange]; omega, by simp only [readRange]; omega⟩)
  have hred : m.read (p.src.toNat + 4 * i) = n.read (p.src.toNat + 4 * i) := hchannel 0 (by decide)
  rw [grayOf, grayOf, hred, hchannel 1 (by decide), hchannel 2 (by decide), hchannel 3 (by decide)]

/-- With the source outside the destination, each destination byte is its own pixel's gray value (rule R117). -/
theorem grayMemory_read (aaw : Bool) (p : Params) (m : Memory)
    (hdisjoint : (readRange (.gray aaw) p).overlaps (writeRange (.gray aaw) p) = false) {i : Nat} (hi : i < pixels p) :
    (grayMemory aaw p m).read (p.dst.toNat + i) = grayOf aaw p m i := by
  rw [grayMemory_eq_foldl]
  refine read_foldl_write_of_independent (fun j k _ _ h => Nat.add_left_cancel h) (fun m' hm' j hj => ?_) hi
  refine grayOf_congr aaw (fun a ha => hm' a fun k hk => ?_) hj
  have hout := not_has (has_eq_false_of_not_overlaps hdisjoint ha)
  simp only [writeRange] at hout
  omega

/-- Settles O20: the command completes with the memory of GRAY's loop, and validation has kept the source and the destination
apart. -/
theorem grayStoresTheGrayPixels : Obligations.GrayStoresTheGrayPixels := by
  intro aaw s h
  obtain ⟨t, hexec, hcompleted, houtside, hmem⟩ := exec_of_runs (i := .gray aaw) rfl h
  obtain ⟨-, hvalid, -⟩ := h
  obtain ⟨-, -, -, -, -, -, hdisjoint⟩ := validate_accept hvalid
  refine ⟨t, hexec, hcompleted, houtside, fun i hi => ?_⟩
  rw [hmem]
  exact grayMemory_read aaw s.lat s.mem (hdisjoint rfl) hi

end Sys2Proof.Machine
end

section
/-! Binary64 results that are exact, and how far the others are from exact (rule R10). -/

namespace Sys2Proof.Machine

/-! ### Zero -/

theorem F64.ofInt_zero : F64.ofInt 0 = F64.zero := rfl

@[simp] theorem F64.zero_mul (a : F64) : F64.zero.mul a = F64.zero := by
  simp only [F64.mul, F64.zero, Int.zero_mul]
  exact F64.round_zero _ _

@[simp] theorem F64.mul_zero (a : F64) : a.mul F64.zero = F64.zero := by
  simp only [F64.mul, F64.zero, Int.mul_zero]
  exact F64.round_zero _ _

@[simp] theorem F64.zero_div (a : F64) : F64.zero.div a = F64.zero := by
  simp only [F64.div, F64.zero, Int.zero_mul]
  exact F64.round_zero _ _

theorem F64.zero_add_zero : F64.zero.add F64.zero = F64.zero := rfl

/-- Adding zero keeps the value (rule R10). -/
theorem F64.add_zero_value {a : F64} (ha : a.representable) : (a.add F64.zero).value = a.value := by
  have h := a.add_isNearest F64.zero
  rw [F64.zero_value, add_zero] at h
  exact h.value_eq ha rfl

/-! ### Small integers -/

/-- A rounding of a small integer is exact. -/
theorem F64.isNearest.value_eq_int {x : F64} {n : Int} (h : x.isNearest n) (hn : n.natAbs < 2 ^ 53) : x.value = n :=
  h.value_eq (F64.intValue_representable hn) (F64.intValue_value n)

section
variable {a b : F64} {m n : Int} (ha : a.value = m) (hb : b.value = n)
include ha hb

theorem F64.add_value_int (h : (m + n).natAbs < 2 ^ 53) : (a.add b).value = (m + n : Int) := by
  have hnear := a.add_isNearest b
  rw [ha, hb, ← Int.cast_add] at hnear
  exact hnear.value_eq_int h

theorem F64.sub_value_int (h : (m - n).natAbs < 2 ^ 53) : (a.sub b).value = (m - n : Int) := by
  have hnear := a.sub_isNearest b
  rw [ha, hb, ← Int.cast_sub] at hnear
  exact hnear.value_eq_int h

theorem F64.mul_value_int (h : (m * n).natAbs < 2 ^ 53) : (a.mul b).value = (m * n : Int) := by
  have hnear := a.mul_isNearest b
  rw [ha, hb, ← Int.cast_mul] at hnear
  exact hnear.value_eq_int h

end

/-! ### How far an operation is from exact -/

/-- A number rounded down to a multiple of `2^-40`. -/
def F64.roundDown (v : ℚ) : F64 := { man := ⌊v * 2 ^ 40⌋, exp := -40 }

theorem F64.roundDown_near (v : ℚ) : |(F64.roundDown v).value - v| ≤ 1 / 2 ^ 40 := by
  have hfloor := Int.floor_le (v * 2 ^ 40)
  have hlt := Int.lt_floor_add_one (v * 2 ^ 40)
  have hvalue : (F64.roundDown v).value = ⌊v * 2 ^ 40⌋ / 2 ^ 40 := by
    rw [F64.value, F64.roundDown, zpow_neg, ← div_eq_mul_inv]
    norm_cast
  rw [hvalue, abs_le]
  generalize ⌊v * 2 ^ 40⌋ = man at hfloor hlt
  constructor <;> linarith

theorem F64.roundDown_representable {v : ℚ} (hv : |v| ≤ 2 ^ 12) : (F64.roundDown v).representable := by
  obtain ⟨hlow, hhigh⟩ := abs_le.1 hv
  have hman_low : -(2 ^ 52 : Int) ≤ ⌊v * 2 ^ 40⌋ := Int.le_floor.2 (by push_cast; linarith)
  have hman_high : (⌊v * 2 ^ 40⌋ : ℚ) ≤ (2 ^ 52 : Int) := (Int.floor_le _).trans (by push_cast; linarith)
  rw [Int.cast_le] at hman_high
  exact ⟨by simp only [F64.roundDown]; omega, show F64.minExp ≤ -40 by decide⟩

/-- Rounding a number of the device's magnitudes costs at most `2^-40`: it is no farther away than rounding down. -/
theorem F64.isNearest.near {x : F64} {v : ℚ} (h : x.isNearest v) (hv : |v| ≤ 2 ^ 12) : |x.value - v| ≤ 1 / 2 ^ 40 := by
  obtain ⟨hle, -⟩ := h.2 _ (F64.roundDown_representable hv)
  exact hle.trans (F64.roundDown_near v)

/-- `x` stands for a number within `ε` of `v`. -/
def F64.Within (x : F64) (v ε : ℚ) : Prop := |x.value - v| ≤ ε

section
variable {a b x : F64} {u v w δ ε : ℚ}

theorem F64.within_of_value_eq (h : x.value = v) : x.Within v 0 := by
  rw [F64.Within, h, sub_self, abs_zero]

theorem F64.Within.weaken (h : x.Within v δ) (hv : v = w) (hε : δ ≤ ε) : x.Within w ε :=
  (hv ▸ h : |x.value - w| ≤ δ).trans hε

/-- A rounding adds `2^-40` to the distance of the exact result. -/
theorem F64.isNearest.within (h : x.isNearest u) (hu : |u - v| ≤ δ) (hsmall : |v| + δ ≤ 2 ^ 12) :
    x.Within v (δ + 1 / 2 ^ 40) := by
  have hsize : |u| ≤ 2 ^ 12 := by linarith [abs_sub_abs_le_abs_sub u v]
  have htriangle := abs_sub_le x.value u v
  have hround := h.near hsize
  unfold F64.Within
  linarith

theorem F64.Within.add (ha : a.Within v δ) (hb : b.Within w ε) (hsmall : |v + w| + (δ + ε) ≤ 2 ^ 12) :
    (a.add b).Within (v + w) (δ + ε + 1 / 2 ^ 40) := by
  refine (a.add_isNearest b).within ?_ hsmall
  rw [add_sub_add_comm]
  exact (abs_add_le _ _).trans (add_le_add ha hb)

theorem F64.Within.sub (ha : a.Within v δ) (hb : b.Within w ε) (hsmall : |v - w| + (δ + ε) ≤ 2 ^ 12) :
    (a.sub b).Within (v - w) (δ + ε + 1 / 2 ^ 40) := by
  refine (a.sub_isNearest b).within ?_ hsmall
  rw [sub_sub_sub_comm]
  exact (abs_sub _ _).trans (add_le_add ha hb)

theorem F64.Within.mul (ha : a.Within v δ) (hb : b.Within w ε) (hsmall : |v * w| + (δ * ε + δ * |w| + |v| * ε) ≤ 2 ^ 12) :
    (a.mul b).Within (v * w) (δ * ε + δ * |w| + |v| * ε + 1 / 2 ^ 40) := by
  refine (a.mul_isNearest b).within ?_ hsmall
  have hsplit : a.value * b.value - v * w =
      (a.value - v) * (b.value - w) + (a.value - v) * w + v * (b.value - w) := by ring
  have hδ : 0 ≤ δ := (abs_nonneg _).trans ha
  calc |a.value * b.value - v * w|
      ≤ |a.value - v| * |b.value - w| + |a.value - v| * |w| + |v| * |b.value - w| := by
        rw [hsplit, ← abs_mul, ← abs_mul, ← abs_mul]
        exact abs_add_three _ _ _
    _ ≤ δ * ε + δ * |w| + |v| * ε := by
        unfold F64.Within at ha hb
        gcongr

theorem F64.Within.div_255 (ha : a.Within v δ) (hsmall : |v / 255| + δ / 255 ≤ 2 ^ 12) :
    (a.div (F64.ofInt 255)).Within (v / 255) (δ / 255 + 1 / 2 ^ 40) := by
  have h := a.div_isNearest (b := F64.ofInt 255) (by decide)
  rw [ofInt_255_value] at h
  refine h.within ?_ hsmall
  rw [← sub_div, abs_div, abs_of_pos (by norm_num : (0 : ℚ) < 255)]
  exact div_le_div_of_nonneg_right ha (by norm_num)

end

/-- The literals of the luminance weights (rule R11). -/
theorem lit_within {n : Int} (h0 : 0 ≤ n) (h1 : n ≤ 10000) : (F64.lit n 10000).Within (n / 10000) (1 / 2 ^ 40) := by
  have h0q : (0 : ℚ) ≤ n := Int.cast_nonneg h0
  have h1q : (n : ℚ) ≤ 10000 := by exact_mod_cast h1
  have hsize : |(n : ℚ) / 10000| + 0 ≤ 2 ^ 12 := by
    rw [abs_of_nonneg (by positivity)]
    linarith
  have h := (F64.lit_isNearest n (d := 10000) (by norm_num)).within (v := n / 10000) (δ := 0) (by simp) hsize
  simpa using h

end Sys2Proof.Machine
end

section
/-! `store8` of a value known by its number, or known to be near 255 (rule R12). -/

namespace Sys2Proof.Machine

theorem F64.floorNat_eq {x : F64} (h : 0 ≤ x.man) : x.floorNat = ⌊x.value⌋₊ := by
  have hsplit := F64.floorNat_add_fraction h
  have hnonneg := x.fraction_nonneg
  have hlt := x.fraction_lt_one
  exact ((Nat.floor_eq_iff (x.man_nonneg_iff.1 h)).2 ⟨by linarith, by linarith⟩).symm

/-- `store8` answers the same byte for the same number, however it is represented. -/
theorem store8_congr {x y : F64} (hx : x.representable) (hy : y.representable) (h : x.value = y.value) :
    store8 x = store8 y := by
  obtain hneg | hpos := le_or_gt x.value 0
  · rw [store8_of_nonpos hneg, store8_of_nonpos (h ▸ hneg)]
  obtain hbig | hlt := le_or_gt 255 x.value
  · rw [store8_of_255_le hbig, store8_of_255_le (h ▸ hbig)]
  have hxman := x.man_nonneg_iff.2 hpos.le
  have hyman := y.man_nonneg_iff.2 (h ▸ hpos.le)
  have hfloor : x.floorNat = y.floorNat := by rw [F64.floorNat_eq hxman, F64.floorNat_eq hyman, h]
  have hfraction : x.fraction.value = y.fraction.value := by
    have hxsplit := F64.floorNat_add_fraction hxman
    rw [h, ← F64.floorNat_add_fraction hyman, hfloor] at hxsplit
    exact add_left_cancel hxsplit
  refine BitVec.eq_of_toNat_eq ?_
  rw [store8_toNat hx hpos hlt, store8_toNat hy (h ▸ hpos) (h ▸ hlt), hfloor, hfraction]

/-- Above 254.5 the nearest byte is 255 (rule R12). -/
theorem store8_of_254_half_lt {x : F64} (hx : x.representable) (h : 509 / 2 < x.value) : store8 x = 255#8 := by
  obtain ⟨-, hclamp, hround⟩ := storeRoundsHalfToEven x hx
  obtain hbig | hlt := le_or_gt 255 x.value
  · exact hclamp hbig
  obtain ⟨hnear, -⟩ := hround (by linarith) hlt
  have hgt : ((254 : Nat) : ℚ) < (store8 x).toNat := by
    have := (abs_le.1 hnear).1
    push_cast
    linarith
  have hbyte := (store8 x).isLt
  rw [Nat.cast_lt] at hgt
  exact BitVec.eq_of_toNat_eq (show (store8 x).toNat = 255 by omega)

end Sys2Proof.Machine
end

section
/-! GRAY's arithmetic at the neutral brightness and at the extremes (rules R111 to R119): zeros and 255s are exact, and `store8`
absorbs what the brightness curve adds to white. -/

namespace Sys2Proof.Machine

/-! ### The neutral brightness -/

/-- At brightness 128 the bias term is zero (rule R115). -/
theorem bias_neutral (m : F64) : bias m 128 = m.add F64.zero := by
  simp [bias, Config.brightNeutral, F64.ofInt_zero]

theorem luma_representable (r g b : F64) : (luma r g b).representable := (F64.add_isNearest _ _).1

/-- Settles O21: the bias term is zero, and adding it keeps the luminance's value. -/
theorem neutralBrightnessStoresTheLuminance : Obligations.NeutralBrightnessStoresTheLuminance := by
  intro r g b a aaw
  rw [grayPixel, bias_neutral]
  exact store8_congr (F64.add_isNearest _ _).1 (luma_representable _ _ _) (F64.add_zero_value (luma_representable _ _ _))

/-! ### The alpha stage at its ends -/

theorem effectiveAlpha_transparent : effectiveAlpha 0#8 = F64.zero := F64.zero_div _

/-- Rule R111: an opaque pixel has alpha 1 exactly. -/
theorem effectiveAlpha_opaque_value : (effectiveAlpha 255#8).value = (1 : Int) := by
  have h := (F64.ofInt 255).div_isNearest (b := F64.ofInt 255) (by decide)
  rw [ofInt_255_value, div_self (by norm_num), ← Int.cast_one] at h
  exact h.value_eq_int (by decide)

/-- Rule R113: on a black background a transparent pixel is zero. -/
theorem alphaStage_transparent_black (c : Byte) : alphaStage c 0#8 false = F64.zero := by
  simp [alphaStage, effectiveAlpha_transparent]

/-- Rule R112: on a white background a transparent pixel is 255 exactly. -/
theorem alphaStage_transparent_white_value (c : Byte) : (alphaStage c 0#8 true).value = 255 := by
  have hc := c.isLt
  have ht : ((F64.ofInt 1).sub F64.zero).value = (1 - 0 : Int) :=
    F64.sub_value_int (F64.ofInt_value (by decide)) (by simp [F64.zero_value]) (by decide)
  have hrest := F64.mul_value_int (F64.ofInt_value (n := 255 - (c.toNat : Int)) (by omega)) ht (by omega)
  have hsum := F64.add_value_int (F64.ofInt_value (n := (c.toNat : Int)) (by omega)) hrest (by omega)
  have hwhite : (c.toNat : Int) + (255 - (c.toNat : Int)) * (1 - 0) = 255 := by ring
  rw [hwhite] at hsum
  simpa [alphaStage, effectiveAlpha_transparent] using hsum

/-- Rule R113: an opaque pixel is premultiplied, whatever AAW says. -/
theorem alphaStage_opaque (c : Byte) (aaw : Bool) :
    alphaStage c 255#8 aaw = (F64.ofInt c.toNat).mul (effectiveAlpha 255#8) := by
  simp [alphaStage]

theorem alphaStage_opaque_black (aaw : Bool) : alphaStage 0#8 255#8 aaw = F64.zero := by
  rw [alphaStage_opaque]
  exact F64.zero_mul _

theorem alphaStage_opaque_white_value (aaw : Bool) : (alphaStage 255#8 255#8 aaw).value = 255 := by
  rw [alphaStage_opaque]
  exact F64.mul_value_int (F64.ofInt_value (n := 255) (by decide)) effectiveAlpha_opaque_value (by decide)

/-! ### Black and white through the luminance and the brightness curve -/

/-- A black pixel's luminance and bias are zero at every brightness (rule R118). -/
theorem store8_bias_black (bri : Nat) : store8 (bias (luma F64.zero F64.zero F64.zero) bri) = 0#8 := by
  have hluma : luma F64.zero F64.zero F64.zero = F64.zero := by simp [luma, F64.zero_add_zero]
  have hbias : bias F64.zero bri = F64.zero := by simp [bias, F64.zero_add_zero]
  rw [hluma, hbias]
  exact store8_of_nonpos F64.zero_value.le

theorem ofInt_one_value : (F64.ofInt 1).value = 1 := by exact_mod_cast F64.ofInt_value (n := 1) (by decide)

theorem ofInt_two_value : (F64.ofInt 2).value = 2 := by exact_mod_cast F64.ofInt_value (n := 2) (by decide)

/-- The weights sum to 1, so that the luminance of white is about 255 (rule R114). -/
theorem luma_white_within {r g b : F64} (hr : r.value = 255) (hg : g.value = 255) (hb : b.value = 255) :
    (luma r g b).Within 255 (1 / 2 ^ 30) := by
  have hred := (F64.within_of_value_eq hr).mul (lit_within (n := 2125) (by norm_num) (by norm_num)) (by norm_num)
  have hgreen := (F64.within_of_value_eq hg).mul (lit_within (n := 7154) (by norm_num) (by norm_num)) (by norm_num)
  have hblue := (F64.within_of_value_eq hb).mul (lit_within (n := 721) (by norm_num) (by norm_num)) (by norm_num)
  have hsum := (hred.add hgreen (by norm_num)).add hblue (by norm_num)
  exact hsum.weaken (by norm_num) (by norm_num)

/-- The brightness setting lies within 128 of the neutral one (rules R27, R115). -/
theorem brightness_within {bri : Nat} (h : bri ≤ 255) : (F64.ofInt ((bri : Int) - Config.brightNeutral)).Within 0 128 := by
  have hlow : (-128 : Int) ≤ (bri : Int) - Config.brightNeutral := by simp only [Config.brightNeutral]; omega
  have hhigh : (bri : Int) - Config.brightNeutral ≤ 128 := by simp only [Config.brightNeutral]; omega
  rw [F64.Within, F64.ofInt_value (by omega), sub_zero]
  exact abs_le.2 ⟨by exact_mod_cast hlow, by exact_mod_cast hhigh⟩

/-- Near white the bias term nearly vanishes, at every brightness (rules R115, R118). -/
theorem bias_white_within {m : F64} (hm : m.Within 255 (1 / 2 ^ 30)) {bri : Nat} (hbri : bri ≤ 255) :
    (bias m bri).Within 255 (1 / 4) := by
  have hbrightness := brightness_within hbri
  have hq := hm.div_255 (by norm_num)
  have hrest := (F64.within_of_value_eq ofInt_one_value).sub hq (by norm_num)
  have hterm := ((hbrightness.mul hrest (by norm_num)).mul hq (by norm_num)).mul
    (F64.within_of_value_eq ofInt_two_value) (by norm_num)
  exact (hm.add hterm (by norm_num)).weaken (by norm_num) (by norm_num)

theorem store8_bias_white {m : F64} (hm : m.Within 255 (1 / 2 ^ 30)) {bri : Nat} (hbri : bri ≤ 255) :
    store8 (bias m bri) = 255#8 := by
  have hnear := (abs_le.1 (bias_white_within hm hbri)).1
  exact store8_of_254_half_lt (F64.add_isNearest _ _).1 (by linarith)

/-- Settles O22: a transparent pixel and an opaque black or white one enter the luminance as exact zeros or exact 255s. -/
theorem grayExtremes : Obligations.GrayExtremes := by
  intro r g b bri hbri
  refine ⟨?_, ?_, fun aaw => ⟨?_, ?_⟩, ?_⟩
  · exact store8_bias_white (luma_white_within (alphaStage_transparent_white_value r)
      (alphaStage_transparent_white_value g) (alphaStage_transparent_white_value b)) hbri
  · simp only [grayPixel, alphaStage_transparent_black]
    exact store8_bias_black bri
  · have hwhite := alphaStage_opaque_white_value aaw
    exact store8_bias_white (luma_white_within hwhite hwhite hwhite) hbri
  · simp only [grayPixel, alphaStage_opaque_black]
    exact store8_bias_black bri
  · simp only [grayPixel, alphaStage_opaque]

end Sys2Proof.Machine
end

section
/-! What THRESH stores, and why THRESH and DIFFUSE leave a black and white buffer alone (rules R140 to R142,
R152, R154, R156). -/

namespace Sys2Proof.Machine

/-! ### The cut -/

theorem quantize_eq_ite (v : Byte) : quantize v = if 128 < v.toNat then 255#8 else 0#8 := by
  simp only [quantize, blackOrWhite, decide_eq_true_eq]
  rfl

/-- Rule R141: black and white are fixed by the cut. -/
theorem BinaryBuffer.quantize_read {m : Memory} {base n i : Nat} (h : BinaryBuffer m base n) (hi : i < n) :
    quantize (m.read (base + i)) = m.read (base + i) := by
  obtain hblack | hwhite := h i hi
  · rw [hblack]; rfl
  · rw [hwhite]; rfl

theorem quantError_of_quantize_eq {v : Byte} (h : quantize v = v) : quantError v = 0 := by
  rw [quantError, h, sub_self]

/-! ### THRESH -/

/-- Each turn of the loop reads the byte that it overwrites, which no earlier turn has touched. -/
theorem threshMemory_read (p : Params) (m : Memory) {i : Nat} (hi : i < pixels p) :
    (threshMemory p m).read (p.src.toNat + i) = quantize (m.read (p.src.toNat + i)) := by
  have huntouched : ((List.range i).foldl
      (fun m j => m.write (p.src.toNat + j) (quantize (m.read (p.src.toNat + j)))) m).read (p.src.toNat + i) =
        m.read (p.src.toNat + i) := by
    refine read_foldl_other _ _ _ (fun m' j hj => Memory.read_write_other m' _ ?_) m
    have := List.mem_range.1 hj
    omega
  rw [← huntouched]
  exact read_foldl_write (fun i => p.src.toNat + i) (fun m i => quantize (m.read (p.src.toNat + i))) (pixels p)
    (fun _ _ _ _ h => Nat.add_left_cancel h) m i hi

/-- Settles O26: the command completes with the memory of THRESH's loop. -/
theorem threshBinarizesEachByte : Obligations.ThreshBinarizesEachByte := by
  intro s h
  obtain ⟨t, hexec, hcompleted, houtside, hmem⟩ := exec_of_runs (i := .thresh) rfl h
  refine ⟨t, hexec, hcompleted, houtside, fun i hi => ?_⟩
  rw [hmem, ← quantize_eq_ite]
  exact threshMemory_read s.lat s.mem hi

/-- On a binary buffer every byte of the image is written back as it was read. -/
theorem threshMemory_read_of_binary {p : Params} {m : Memory} (h : BinaryBuffer m p.src.toNat (pixels p)) (a : Nat) :
    (threshMemory p m).read a = m.read a := by
  cases ha : (writeRange .thresh p).has a with
  | false => exact threshMemory_other p m a ha
  | true =>
    obtain ⟨hle, hlt⟩ := (has_iff _ _).1 ha
    obtain ⟨i, rfl⟩ := Nat.exists_eq_add_of_le hle
    have hi : i < pixels p := Nat.lt_of_add_lt_add_left hlt
    exact (threshMemory_read p m hi).trans (h.quantize_read hi)

/-! ### DIFFUSE -/

/-- `store8` answers a byte's own value exactly (rule R12). -/
theorem store8_of_value_eq {x : F64} {b : Byte} (hx : x.representable) (h : x.value = b.toNat) : store8 x = b := by
  obtain ⟨hlow, hhigh, hround⟩ := storeRoundsHalfToEven x hx
  rw [h] at hlow hhigh hround
  have hb := b.isLt
  refine BitVec.eq_of_toNat_eq ?_
  obtain hzero | hpos := Nat.eq_zero_or_pos b.toNat
  · rw [hlow (by rw [hzero, Nat.cast_zero]), hzero]; rfl
  obtain htop | hlt := Nat.eq_or_lt_of_le (Nat.le_of_lt_succ hb)
  · rw [hhigh (by rw [htop]; norm_num), htop]; rfl
  obtain ⟨hnear, -⟩ := hround (by exact_mod_cast hpos) (by exact_mod_cast hlt)
  have hcast : |((store8 x).toNat : ℤ) - b.toNat| < 1 := by
    have : |((store8 x).toNat : ℚ) - b.toNat| < 1 := hnear.trans_lt (by norm_num)
    exact_mod_cast this
  have := Int.abs_lt_one_iff.1 hcast
  omega

/-- No error, no change: a contribution of 0 stores what was there (rule R154). -/
theorem spreadByte_zero (old : Byte) (w : Int) : spreadByte old 0 w = old := by
  have hold := old.isLt
  have hsum : ((F64.ofInt old.toNat).add F64.zero).value = (old.toNat + 0 : Int) :=
    F64.add_value_int (F64.ofInt_value (by omega)) (by simp [F64.zero_value]) (by omega)
  rw [spreadByte, zero_mul, F64.ofInt_zero, F64.zero_div]
  exact store8_of_value_eq (F64.add_isNearest _ _).1 (by simpa using hsum)

theorem read_spreadIf_zero (cond : Bool) (addr : Nat) (w : Int) (m : Memory) (a : Nat) :
    (spreadIf cond addr 0 w m).read a = m.read a := by
  rw [read_spreadIf, spreadByte_zero]
  split
  · next hc => rw [hc.2]
  · rfl

/-- The visit of a pixel that the cut fixes has no error to spread, and changes no byte (rules R152, R154). -/
theorem diffuseAt_read_of_quantize_eq {src w x y : Nat} {m : Memory}
    (hv : quantize (m.read (byteAddr src w x y)) = m.read (byteAddr src w x y)) (h a : Nat) :
    (diffuseAt src w h x y m).read a = m.read a := by
  rw [diffuseAt_eq_visit, diffuseVisit, quantError_of_quantize_eq hv, hv, read_spreadIf_zero, read_spreadIf_zero,
    read_spreadIf_zero, read_spreadIf_zero, Memory.read_write]
  split
  · next ha => rw [ha]
  · rfl

/-- On a binary buffer every visit meets the bytes that the loop started with, and keeps them (rule R156). -/
theorem diffuseMemory_read_of_binary {p : Params} {m : Memory} (h : BinaryBuffer m p.src.toNat (pixels p)) :
    ∀ a, (diffuseMemory p m).read a = m.read a := by
  refine foldl_keeps (fun m' => ∀ a, m'.read a = m.read a) _ _ (fun m' y hy hm' => ?_) m fun _ => rfl
  refine foldl_keeps (fun m' => ∀ a, m'.read a = m.read a) _ _ (fun m' x hx hm' a => ?_) m' hm'
  have hpixel := pixel_lt (List.mem_range.1 hx) (List.mem_range.1 hy)
  refine (diffuseAt_read_of_quantize_eq ?_ _ a).trans (hm' a)
  rw [hm']
  exact h.quantize_read hpixel

/-- Settles O27: the cut fixes black and white, so THRESH writes each byte back and DIFFUSE has no error to spread. -/
theorem threshAndDiffuseKeepBinaryBuffers : Obligations.ThreshAndDiffuseKeepBinaryBuffers := by
  intro i s hi h hbinary
  have hcommand : Request.isCommand i = true := by
    obtain rfl | rfl := hi <;> rfl
  obtain ⟨t, hexec, -, -, hmem⟩ := exec_of_runs hcommand h
  refine ⟨t, hexec, ?_⟩
  rw [hmem]
  obtain rfl | rfl := hi
  · exact threshMemory_read_of_binary hbinary
  · exact diffuseMemory_read_of_binary hbinary

end Sys2Proof.Machine
end

section
/-! DIFFUSE's arithmetic is exact until `store8`, so that each stored contribution is the integer formula (rules R12, R152,
R154). -/

namespace Sys2Proof.Machine

/-! ### The quantization error -/

/-- Settles O28: the cut takes 0 from a byte up to 128, and 255 from a byte above. -/
theorem quantizationError : Obligations.QuantizationError := by
  intro v
  have hv := v.isLt
  refine ⟨quantize_eq_ite v, rfl, ?_⟩
  rw [quantError, quantize_eq_ite]
  by_cases hwhite : 128 < v.toNat
  · rw [if_pos hwhite, BitVec.toNat_ofNat]
    omega
  · rw [if_neg hwhite, BitVec.toNat_ofNat]
    omega

/-! ### Sixteenths -/

/-- The binary64 number `n / 16`. -/
def F64.sixteenths (n : Int) : F64 := { man := n, exp := -4 }

theorem F64.sixteenths_value (n : Int) : (F64.sixteenths n).value = n / 16 := by
  rw [F64.value, F64.sixteenths, zpow_neg, ← div_eq_mul_inv]
  norm_num

theorem F64.sixteenths_representable {n : Int} (h : n.natAbs < 2 ^ 53) : (F64.sixteenths n).representable :=
  ⟨h, show F64.minExp ≤ -4 by decide⟩

/-- A rounding of a small number of sixteenths is exact. -/
theorem F64.isNearest.value_eq_sixteenths {x : F64} {n : Int} (h : x.isNearest (n / 16)) (hn : n.natAbs < 2 ^ 53) :
    x.value = n / 16 :=
  h.value_eq (F64.sixteenths_representable hn) (F64.sixteenths_value n)

/-- Neither the division by 16 nor the addition of rule R154 rounds. -/
theorem add_div_16_value {a n : Int} (ha : a.natAbs < 2 ^ 8) (hn : n.natAbs < 2 ^ 10) :
    ((F64.ofInt a).add ((F64.ofInt n).div (F64.ofInt 16))).value = (16 * a + n : Int) / 16 := by
  have h16 : (F64.ofInt 16).value = 16 := by exact_mod_cast F64.ofInt_value (n := 16) (by decide)
  have hquot : ((F64.ofInt n).div (F64.ofInt 16)).value = n / 16 := by
    have h := (F64.ofInt n).div_isNearest (b := F64.ofInt 16) (by decide)
    rw [F64.ofInt_value (by omega), h16] at h
    exact h.value_eq_sixteenths (by omega)
  have hsum : (a : ℚ) + n / 16 = (16 * a + n : Int) / 16 := by
    push_cast
    ring
  have h := (F64.ofInt a).add_isNearest ((F64.ofInt n).div (F64.ofInt 16))
  rw [F64.ofInt_value (by omega), hquot, hsum] at h
  exact h.value_eq_sixteenths (by omega)

/-! ### The store of sixteenths -/

theorem abs_sub_sixteenths (b n : Int) : |(b : ℚ) - n / 16| = (|16 * b - n| : Int) / 16 := by
  rw [show (b : ℚ) - n / 16 = (16 * b - n : Int) / 16 by push_cast; ring, abs_div, abs_of_pos (by norm_num : (0 : ℚ) < 16),
    Int.cast_abs]

/-- An integer within half of `n / 16`, and even at a tie, is the rounding of rule R154. -/
theorem eq_roundSixteenths {b n : Int} (hnear : |(b : ℚ) - n / 16| ≤ 1 / 2)
    (htie : |(b : ℚ) - n / 16| = 1 / 2 → b % 2 = 0) : b = roundSixteenths n := by
  rw [abs_sub_sixteenths, div_le_iff₀ (by norm_num)] at hnear
  rw [abs_sub_sixteenths, div_eq_iff (by norm_num)] at htie
  norm_num only at hnear htie
  norm_cast at hnear htie
  rw [abs_le] at hnear
  rw [abs_eq (by norm_num)] at htie
  unfold roundSixteenths
  split_ifs <;> omega

theorem roundSixteenths_le_zero {n : Int} (h : n ≤ 0) : roundSixteenths n ≤ 0 := by
  unfold roundSixteenths
  split_ifs <;> omega

theorem le_roundSixteenths {n b : Int} (h : 16 * b ≤ n) : b ≤ roundSixteenths n := by
  unfold roundSixteenths
  split_ifs <;> omega

/-- `store8` of a number of sixteenths rounds and clamps it as rule R154's formula does. -/
theorem store8_toNat_of_sixteenths {x : F64} {n : Int} (hx : x.representable) (hvalue : x.value = n / 16) :
    ((store8 x).toNat : Int) = clampByte (roundSixteenths n) := by
  have hbyte := (store8 x).isLt
  obtain ⟨hlow, hhigh, hround⟩ := storeRoundsHalfToEven x hx
  unfold clampByte
  obtain hneg | hpos := le_or_gt n 0
  · have hvalue_neg : x.value ≤ 0 := by
      have : (n : ℚ) ≤ 0 := by exact_mod_cast hneg
      linarith
    have := roundSixteenths_le_zero hneg
    rw [hlow hvalue_neg, BitVec.toNat_ofNat]
    omega
  obtain hbig | hsmall := le_or_gt (16 * 255) n
  · have hvalue_big : 255 ≤ x.value := by
      have : (16 * 255 : ℚ) ≤ n := by exact_mod_cast hbig
      linarith
    have := le_roundSixteenths hbig
    rw [hhigh hvalue_big, BitVec.toNat_ofNat]
    omega
  have hposq : (0 : ℚ) < n := by exact_mod_cast hpos
  have hsmallq : (n : ℚ) < 16 * 255 := by exact_mod_cast hsmall
  obtain ⟨hnear, htie⟩ := hround (by linarith) (by linarith)
  rw [hvalue] at hnear htie
  have hrounded := eq_roundSixteenths (b := (store8 x).toNat) (by exact_mod_cast hnear) fun h => by
    exact_mod_cast htie (by exact_mod_cast h)
  omega

/-- Settles O29: the sum before the store is exactly `16 * old + w * e` sixteenths. -/
theorem spreadIsTheIntegerFormula : Obligations.SpreadIsTheIntegerFormula := by
  intro old e w hlow hhigh hw
  have hold := old.isLt
  have hproduct : (e * w).natAbs < 2 ^ 10 := by
    obtain rfl | rfl | rfl | rfl := hw <;> omega
  rw [spreadInt, mul_comm w e]
  exact store8_toNat_of_sixteenths (F64.add_isNearest _ _).1 (add_div_16_value (by omega) hproduct)

end Sys2Proof.Machine
end

section
/-! DIFFUSE on memory and DIFFUSE on integers (rules R150 to R156): each write to memory is the same update of the array of the
bytes' numbers, so the loops commute with reading the image. -/

namespace Sys2Proof.Machine

/-! ### Reading the image commutes with each write -/

/-- The bytes of memory from `src` on, as numbers. -/
def imageInt (src : Nat) (m : Memory) (k : Nat) : Int := (m.read (src + k)).toNat

/-- `Spread(k, e, w)` on an array of integers, when the target exists (rule R153). -/
def spreadAt (cond : Bool) (target : Nat) (e w : Int) (f : Nat → Int) (k : Nat) : Int :=
  if cond = true ∧ k = target then spreadInt (f k) e w else f k

theorem imageInt_write (src p : Nat) (b : Byte) (m : Memory) :
    imageInt src (m.write (src + p) b) = Function.update (imageInt src m) p b.toNat := by
  funext k
  simp only [imageInt, Memory.read_write, Function.update_apply, Nat.add_left_cancel_iff]
  split <;> rfl

theorem imageInt_spreadIf (src : Nat) (cond : Bool) (target : Nat) (v : Byte) {w : Int}
    (hw : w = 1 ∨ w = 3 ∨ w = 5 ∨ w = 7) (m : Memory) :
    imageInt src (spreadIf cond (src + target) (quantError v) w m) =
      spreadAt cond target (quantError v) w (imageInt src m) := by
  obtain ⟨-, -, hlow, hhigh, -⟩ := quantizationError v
  funext k
  simp only [imageInt, read_spreadIf, spreadAt, Nat.add_left_cancel_iff]
  split
  · next hc => rw [spreadIsTheIntegerFormula _ _ _ hlow hhigh hw, hc.2]
  · rfl

/-! ### One visit -/

/-- The targets of a visit are four different pixels, so that its spreads in sequence are `visitInt`'s one choice
for each pixel. -/
theorem visitInt_eq_spreads {w x : Nat} (hx : x < w) (h y : Nat) (f : Nat → Int) {n : Int}
    (hn : n = if 128 < f (y * w + x) then 255 else 0) :
    visitInt w h (y * w + x) f =
      let p := y * w + x
      let e := f p - n
      spreadAt (decide (y + 1 < h) && decide (x + 1 < w)) (p + w + 1) e 1
        (spreadAt (decide (y + 1 < h)) (p + w) e 5
          (spreadAt (decide (y + 1 < h) && decide (1 ≤ x)) (p + w - 1) e 3
            (spreadAt (decide (x + 1 < w)) (p + 1) e 7 (Function.update f p n)))) := by
  have hmod : (y * w + x) % w = x := Nat.mul_add_mod_of_lt hx
  have hdiv : (y * w + x) / w = y := by
    rw [Nat.mul_comm, Nat.mul_add_div (Nat.zero_lt_of_lt hx), Nat.div_eq_of_lt hx, Nat.add_zero]
  funext k
  simp only [visitInt, hmod, hdiv, ← hn]
  generalize y * w + x = p
  simp only [spreadAt, Function.update_apply, Bool.and_eq_true, decide_eq_true_eq]
  by_cases hself : k = p
  · simp (disch := omega) only [if_pos, if_neg]
  by_cases heast : x + 1 < w ∧ k = p + 1
  · simp (disch := omega) only [if_pos, if_neg]
  by_cases hsouthwest : y + 1 < h ∧ 1 ≤ x ∧ k = p + w - 1
  · simp (disch := omega) only [if_pos, if_neg]
  by_cases hsouth : y + 1 < h ∧ k = p + w
  · simp (disch := omega) only [if_pos, if_neg]
  by_cases hsoutheast : y + 1 < h ∧ x + 1 < w ∧ k = p + w + 1
  · simp (disch := omega) only [if_pos, if_neg]
  · simp (disch := omega) only [if_neg]

/-- Reading the image commutes with the visit of a pixel. -/
theorem imageInt_diffuseAt (src : Nat) {w x : Nat} (hx : x < w) (h y : Nat) (m : Memory) :
    imageInt src (diffuseAt src w h x y m) = visitInt w h (y * w + x) (imageInt src m) := by
  have hquant : ((quantize (m.read (src + (y * w + x)))).toNat : Int) =
      if 128 < imageInt src m (y * w + x) then 255 else 0 := by
    simp only [quantize_eq_ite, imageInt, Nat.ofNat_lt_cast]
    split <;> rfl
  have hsouthwest : src + (y * w + x) + w - 1 = src + (y * w + x + w - 1) := by omega
  rw [visitInt_eq_spreads hx h y _ hquant, diffuseAt_eq_visit, diffuseVisit, byteAddr, hsouthwest]
  simp only [add_assoc src, imageInt_spreadIf, imageInt_write, true_or, or_true]
  rfl

/-! ### The loops -/

/-- Rows of `w` columns in order are the indices below `w * h` in order (rule R151). -/
theorem foldl_rows_columns {β : Type} {w : Nat} (g : β → Nat → Nat → β) (h : Nat) (b : β) :
    (List.range h).foldl (fun b y => (List.range w).foldl (fun b x => g b x y) b) b =
      (List.range (w * h)).foldl (fun b p => g b (p % w) (p / w)) b := by
  induction h with
  | zero => rfl
  | succ h ih =>
    rw [List.range_succ, List.foldl_append, ih, Nat.mul_succ, List.range_add, List.foldl_append, List.foldl_map,
      List.foldl_cons, List.foldl_nil]
    refine List.foldl_ext _ _ _ fun b x hx => ?_
    have hx := List.mem_range.1 hx
    rw [Nat.mul_add_mod, Nat.mod_eq_of_lt hx, Nat.mul_add_div (by omega), Nat.div_eq_of_lt hx, add_zero]

theorem diffuseMemory_eq_foldl_pixels (p : Params) (m : Memory) :
    diffuseMemory p m =
      (List.range (p.width.toNat * p.height.toNat)).foldl
        (fun m k => diffuseAt p.src.toNat p.width.toNat p.height.toNat (k % p.width.toNat) (k / p.width.toNat) m) m :=
  foldl_rows_columns (fun m x y => diffuseAt p.src.toNat p.width.toNat p.height.toNat x y m) _ m

/-- Reading the image commutes with DIFFUSE. -/
theorem imageInt_diffuseMemory (p : Params) (m : Memory) :
    imageInt p.src.toNat (diffuseMemory p m) = diffuseInt p.width.toNat p.height.toNat (imageInt p.src.toNat m) := by
  rw [diffuseMemory_eq_foldl_pixels, diffuseInt]
  obtain hzero | hpos := Nat.eq_zero_or_pos p.width.toNat
  · simp only [hzero, zero_mul, List.range_zero, List.foldl_nil]
  · refine (List.foldl_hom (imageInt p.src.toNat) fun m k => ?_).symm
    rw [imageInt_diffuseAt _ (Nat.mod_lt k hpos), Nat.div_add_mod']

/-- Settles O30: the memory that DIFFUSE leaves, read as integers, is the reference's array. -/
theorem diffuseMatchesTheIntegerReference : Obligations.DiffuseMatchesTheIntegerReference := by
  intro s h
  obtain ⟨t, hexec, hcompleted, houtside, hmem⟩ := exec_of_runs (i := .diffuse) rfl h
  refine ⟨t, hexec, hcompleted, houtside, fun i _ => ?_⟩
  rw [hmem]
  exact congrFun (imageInt_diffuseMemory s.lat s.mem) i

/-! ### The output is black and white -/

theorem visitInt_self (w h p : Nat) (f : Nat → Int) : visitInt w h p f p = if 128 < f p then 255 else 0 := by
  simp [visitInt]

/-- No target lies before the pixel that is visited (rule R153). -/
theorem visitInt_before {w h p k : Nat} (hw : 0 < w) (f : Nat → Int) (hk : k < p) : visitInt w h p f k = f k := by
  simp only [visitInt]
  rw [if_neg (by omega), if_neg (by omega), if_neg (by omega), if_neg (by omega), if_neg (by omega)]

/-- Each pixel is 0 or 255 from its own visit on. -/
theorem foldl_visitInt_binary {w : Nat} (hw : 0 < w) (h : Nat) (f : Nat → Int) {n k : Nat} (hk : k < n) :
    (List.range n).foldl (fun f p => visitInt w h p f) f k = 0 ∨
      (List.range n).foldl (fun f p => visitInt w h p f) f k = 255 := by
  induction n with
  | zero => exact absurd hk (Nat.not_lt_zero k)
  | succ n ih =>
    rw [List.range_succ, List.foldl_append, List.foldl_cons, List.foldl_nil]
    obtain hlt | rfl := Nat.lt_succ_iff_lt_or_eq.1 hk
    · rw [visitInt_before hw _ hlt]
      exact ih hlt
    · rw [visitInt_self]
      split_ifs
      · exact .inr rfl
      · exact .inl rfl

theorem diffuseInt_binary {w h : Nat} (f : Nat → Int) {k : Nat} (hk : k < w * h) :
    diffuseInt w h f k = 0 ∨ diffuseInt w h f k = 255 :=
  foldl_visitInt_binary (Nat.pos_of_ne_zero fun hw => by simp [hw] at hk) h f hk

/-- Settles O31: the integers that the reference leaves are 0 and 255, and so are the bytes. -/
theorem diffuseOutputIsBinary : Obligations.DiffuseOutputIsBinary := by
  intro s h
  obtain ⟨t, hexec, -, -, hread⟩ := diffuseMatchesTheIntegerReference s h
  refine ⟨t, hexec, fun i hi => ?_⟩
  obtain hblack | hwhite := diffuseInt_binary
    (fun k => ((s.mem.read (s.lat.src.toNat + k)).toNat : Int)) (show i < s.lat.width.toNat * s.lat.height.toNat from hi)
  · rw [← hread i hi] at hblack
    exact .inl (BitVec.eq_of_toNat_eq (by exact_mod_cast hblack))
  · rw [← hread i hi] at hwhite
    exact .inr (BitVec.eq_of_toNat_eq (by exact_mod_cast hwhite))

end Sys2Proof.Machine
end

section
/-! HALFTONE's decision is the level table (rules R173, R174, R177). The radius is exact where `Ssum` is a multiple of 255, the
table's two thresholds among them; at every other sum its rounding errors are far below the distance to a threshold. -/

namespace Sys2Proof.Machine

/-! ### The dot radius -/

/-- `avg` of rule R172: the block sum over 16, over 255. -/
def blockAverage (ssum : Nat) : F64 := ((F64.ofInt ssum).div (F64.ofInt 16)).div (F64.ofInt 255)

theorem dotRadius_eq (ssum : Nat) : dotRadius ssum = ((F64.ofInt 1).sub (blockAverage ssum)).mul (F64.ofInt 4) := rfl

theorem ofInt_four_value : (F64.ofInt 4).value = (4 : Int) := F64.ofInt_value (by decide)

/-- The division by 16 is exact, so the average is one rounding of `Ssum / 4080`. -/
theorem blockAverage_isNearest {ssum : Nat} (h : ssum ≤ 4080) : (blockAverage ssum).isNearest (ssum / 4080) := by
  have h16 : (F64.ofInt 16).value = 16 := by exact_mod_cast F64.ofInt_value (n := 16) (by decide)
  have hsixteenth : ((F64.ofInt ssum).div (F64.ofInt 16)).value = (ssum : Int) / 16 := by
    have hdiv := (F64.ofInt ssum).div_isNearest (b := F64.ofInt 16) (by decide)
    rw [F64.ofInt_value (by omega), h16] at hdiv
    exact hdiv.value_eq_sixteenths (by omega)
  have havg := ((F64.ofInt ssum).div (F64.ofInt 16)).div_isNearest (b := F64.ofInt 255) (by decide)
  rw [hsixteenth, ofInt_255_value, div_div, Int.cast_natCast] at havg
  norm_num only at havg
  exact havg

/-- At `Ssum = 255 * k` the average is exact (rule R177). -/
theorem blockAverage_value {k : Nat} (hk : k ≤ 16) : (blockAverage (255 * k)).value = k / 16 := by
  have h := blockAverage_isNearest (ssum := 255 * k) (by omega)
  rw [show ((255 * k : Nat) : ℚ) / 4080 = (k : Int) / 16 by push_cast; ring] at h
  exact h.value_eq_sixteenths (by omega)

/-- At `Ssum = 255 * k` the radius is exact (rule R177). -/
theorem dotRadius_value {k : Nat} (hk : k ≤ 16) : (dotRadius (255 * k)).value = (16 - k) / 4 := by
  have hsub := (F64.ofInt 1).sub_isNearest (blockAverage (255 * k))
  rw [ofInt_one_value, blockAverage_value hk, show (1 : ℚ) - k / 16 = (16 - k : Int) / 16 by push_cast; ring] at hsub
  have hmul := ((F64.ofInt 1).sub (blockAverage (255 * k))).mul_isNearest (F64.ofInt 4)
  rw [hsub.value_eq_sixteenths (by omega), ofInt_four_value,
    show ((16 - k : Int) : ℚ) / 16 * (4 : Int) = (4 * (16 - k) : Int) / 16 by push_cast; ring] at hmul
  rw [dotRadius_eq, hmul.value_eq_sixteenths (by omega)]
  push_cast
  ring

/-- The three roundings of the radius together. -/
theorem dotRadius_within {ssum : Nat} (h : ssum ≤ 4080) : (dotRadius ssum).Within (4 - ssum / 1020) (1 / 2 ^ 36) := by
  have hlow : (0 : ℚ) ≤ ssum := Nat.cast_nonneg ssum
  have hhigh : (ssum : ℚ) ≤ 4080 := by exact_mod_cast h
  have havg : |(ssum : ℚ) / 4080| ≤ 1 := abs_le.2 ⟨by linarith, by linarith⟩
  have hcomplement : |1 - (ssum : ℚ) / 4080| ≤ 1 := abs_le.2 ⟨by linarith, by linarith⟩
  have hwithin := (blockAverage_isNearest h).within (v := ssum / 4080) (δ := 0) (by simp) (by linarith)
  have hsub := (F64.within_of_value_eq ofInt_one_value).sub hwithin (by linarith)
  have hmul := hsub.mul (F64.within_of_value_eq ofInt_four_value) (by
    rw [abs_mul]
    norm_num
    linarith)
  exact hmul.weaken (by push_cast; ring) (by norm_num)

/-- The radius is above a quarter-integer exactly when the block sum is below the matching multiple of 255. -/
theorem lt_dotRadius_iff {ssum k : Nat} (h : ssum ≤ 4080) (hk : k ≤ 16) :
    (16 - k : ℚ) / 4 < (dotRadius ssum).value ↔ ssum < 255 * k := by
  obtain ⟨hlow, hhigh⟩ := abs_le.1 (dotRadius_within h)
  obtain hlt | rfl | hgt := lt_trichotomy ssum (255 * k)
  · have hstep : (ssum : ℚ) + 1 ≤ 255 * k := by exact_mod_cast hlt
    exact iff_of_true (by linarith) hlt
  · rw [dotRadius_value hk]
    exact iff_of_false (lt_irrefl _) (lt_irrefl _)
  · have hstep : (255 * k : ℚ) + 1 ≤ ssum := by exact_mod_cast hgt
    exact iff_of_false (by linarith) (by omega)

/-! ### The offsets of a block -/

/-- An offset's threshold in units of 255: `14 * 255 = 3570` for the inner two offsets, `10 * 255 = 2550` for the outer two
(rule R177). -/
def offsetLevel (xx : Nat) : Nat := if 1 ≤ xx ∧ xx ≤ 2 then 14 else 10

theorem offsetLevel_le (xx : Nat) : offsetLevel xx ≤ 16 := by
  unfold offsetLevel
  split_ifs <;> omega

/-- An offset's distance from the centre is exact: one half for the inner two offsets and three halves for the outer two. -/
theorem centerDistance_value {xx : Nat} (h : xx < 4) :
    ((F64.ofInt xx).sub halftoneCenter).abs.value = (16 - offsetLevel xx : ℚ) / 4 := by
  have hsub := (F64.ofInt xx).sub_isNearest halftoneCenter
  rw [F64.ofInt_value (by omega), halftoneCenter_value,
    show ((xx : Int) : ℚ) - 3 / 2 = (16 * xx - 24 : Int) / 16 by push_cast; ring] at hsub
  rw [F64.abs_value, hsub.value_eq_sixteenths (by omega)]
  interval_cases xx <;> norm_num [offsetLevel, abs_div]

theorem centerDistance_ge_dotRadius_iff {ssum xx : Nat} (h : ssum ≤ 4080) (hxx : xx < 4) :
    ((F64.ofInt xx).sub halftoneCenter).abs.ge (dotRadius ssum) = true ↔ 255 * offsetLevel xx ≤ ssum := by
  rw [F64.ge_iff, centerDistance_value hxx, ← not_lt, lt_dotRadius_iff h (offsetLevel_le xx), not_lt]

/-- An offset is white when the sum reaches the threshold of its column or of its row: the table of rule R177. -/
theorem halftoneWhite_dotRadius {ssum xx yy : Nat} (h : ssum ≤ 4080) (hxx : xx < 4) (hyy : yy < 4) :
    halftoneWhite (dotRadius ssum) xx yy = !levelBlack ssum xx yy := by
  rw [Bool.eq_iff_iff, halftoneWhite, Bool.or_eq_true, centerDistance_ge_dotRadius_iff h hxx,
    centerDistance_ge_dotRadius_iff h hyy]
  simp only [levelBlack, offsetLevel, Bool.not_or, Bool.not_and, Bool.and_eq_true, Bool.or_eq_true, Bool.not_eq_true',
    decide_eq_false_iff_not]
  split_ifs <;> omega

/-- Settles O32: the thresholds 2550 and 3570 are `255 * 10` and `255 * 14`, where nothing is rounded. -/
theorem halftoneMatchesTheLevelTable : Obligations.HalftoneMatchesTheLevelTable := by
  refine ⟨fun ssum xx yy h hxx hyy => halftoneWhite_dotRadius h hxx hyy, fun ssum h => ⟨?_, ?_⟩,
    (blockAverage_value (k := 10) (by decide)).trans ?_, (dotRadius_value (k := 10) (by decide)).trans ?_,
    (blockAverage_value (k := 14) (by decide)).trans ?_, (dotRadius_value (k := 14) (by decide)).trans ?_⟩
  · rw [← lt_dotRadius_iff (k := 10) h (by decide)]
    norm_num
  · rw [← lt_dotRadius_iff (k := 14) h (by decide)]
    norm_num
  all_goals norm_num

end Sys2Proof.Machine
end

section
/-! HALFTONE on memory (rules R170 to R177): blocks are disjoint and each depends on its own 16 bytes only, so that every one is
drawn from the input. -/

namespace Sys2Proof.Machine

/-! ### Loops whose turns do not meet -/

/-- Bytes that one turn of a loop alone changes, and changes in dependence on themselves only, are as that turn makes them from
the loop's first memory. -/
theorem read_foldl_turn {α : Type} {f : Memory → α → Memory} {l : List α} {i : α} {own : Nat → Prop} (hl : l.Nodup)
    (hi : i ∈ l) (hother : ∀ m, ∀ j ∈ l, j ≠ i → ∀ a, own a → (f m j).read a = m.read a)
    (hturn : ∀ m n : Memory, (∀ a, own a → m.read a = n.read a) → ∀ a, own a → (f m i).read a = (f n i).read a)
    (m : Memory) {a : Nat} (ha : own a) : (l.foldl f m).read a = (f m i).read a := by
  obtain ⟨before, after, rfl⟩ := List.append_of_mem hi
  obtain ⟨-, hrest, hapart⟩ := List.nodup_append.1 hl
  obtain ⟨hafter, -⟩ := List.nodup_cons.1 hrest
  have hbefore : i ∉ before := fun h => hapart i h i List.mem_cons_self rfl
  rw [List.foldl_append, List.foldl_cons,
    read_foldl_other f after a fun m j hj => hother m j (by simp [hj]) (fun h => hafter (h ▸ hj)) a ha]
  refine hturn _ _ (fun b hb => ?_) a ha
  exact read_foldl_other f before b (fun m j hj => hother m j (by simp [hj]) (fun h => hbefore (h ▸ hj)) b hb) m

/-- The same for the two loops over the rows and columns of an image. -/
theorem read_foldl_rows_columns_turn {f : Memory → Nat → Nat → Memory} {w h x y : Nat} {own : Nat → Prop} (hx : x < w)
    (hy : y < h)
    (hother : ∀ m, ∀ x' < w, ∀ y' < h, ¬(x' = x ∧ y' = y) → ∀ a, own a → (f m x' y').read a = m.read a)
    (hturn : ∀ m n : Memory, (∀ a, own a → m.read a = n.read a) → ∀ a, own a → (f m x y).read a = (f n x y).read a)
    (m : Memory) {a : Nat} (ha : own a) :
    ((List.range h).foldl (fun m y => (List.range w).foldl (fun m x => f m x y) m) m).read a = (f m x y).read a := by
  have hmod : (y * w + x) % w = x := Nat.mul_add_mod_of_lt hx
  have hdiv : (y * w + x) / w = y := by
    rw [Nat.mul_comm, Nat.mul_add_div (Nat.zero_lt_of_lt hx), Nat.div_eq_of_lt hx, Nat.add_zero]
  rw [foldl_rows_columns f, read_foldl_turn (i := y * w + x) (own := own) List.nodup_range
    (List.mem_range.2 (pixel_lt hx hy)) (fun m j hj hne => ?_) (by simpa only [hmod, hdiv] using hturn) m ha, hmod, hdiv]
  refine hother m _ (Nat.mod_lt j (Nat.zero_lt_of_lt hx)) _ (Nat.div_lt_of_lt_mul (List.mem_range.1 hj)) ?_
  rintro ⟨rfl, rfl⟩
  exact hne (Nat.div_add_mod' j w).symm

/-- Two pixels of an image at one address are the same pixel (rule R66). -/
theorem byteAddr_inj {base w x y x' y' : Nat} (hx : x < w) (hx' : x' < w)
    (h : byteAddr base w x y = byteAddr base w x' y') : x = x' ∧ y = y' := by
  have hindex : y * w + x = y' * w + x' := Nat.add_left_cancel h
  have hcolumn := congrArg (· % w) hindex
  simp only [Nat.mul_add_mod_of_lt hx, Nat.mul_add_mod_of_lt hx'] at hcolumn
  subst hcolumn
  exact ⟨rfl, Nat.eq_of_mul_eq_mul_right (Nat.zero_lt_of_lt hx) (Nat.add_right_cancel hindex)⟩

/-! ### One block -/

/-- The 16 addresses of the block whose top left pixel is at `base` (rule R170). -/
def InBlock (base w a : Nat) : Prop := ∃ yy < 4, ∃ xx < 4, a = base + yy * w + xx

section
variable (base : Nat) {w : Nat}

/-- A pixel of a block is a pixel of the image (rule R171). -/
theorem byteAddr_block (x y xx yy : Nat) : byteAddr base w x y + yy * w + xx = byteAddr base w (x + xx) (y + yy) := by
  simp only [byteAddr, Nat.add_mul]
  omega

/-- A block's dots are what the radius gives for each offset (rules R174, R176). -/
theorem drawDots_read (hw : 4 ≤ w) (r : F64) (m : Memory) {xx yy : Nat} (hxx : xx < 4) (hyy : yy < 4) :
    (drawDots w base r m).read (base + yy * w + xx) = blackOrWhite (halftoneWhite r xx yy) := by
  refine (read_foldl_rows_columns_turn (x := xx) (y := yy) (own := (· = base + yy * w + xx)) hxx hyy ?_ ?_ m rfl).trans
    (Memory.read_write_same _ _ _)
  · rintro m x' hx' y' - hne a rfl
    refine Memory.read_write_other _ _ fun h => hne ?_
    rw [Nat.add_assoc, Nat.add_assoc] at h
    obtain ⟨hcolumn, hrow⟩ := byteAddr_inj (by omega) (by omega) h
    exact ⟨hcolumn.symm, hrow.symm⟩
  · rintro m n - a rfl
    simp

theorem halftoneBlock_read (hw : 4 ≤ w) (m : Memory) {xx yy : Nat} (hxx : xx < 4) (hyy : yy < 4) :
    (halftoneBlock w base m).read (base + yy * w + xx) =
      blackOrWhite (halftoneWhite (dotRadius (blockSum w base m)) xx yy) :=
  drawDots_read base hw _ m hxx hyy

/-- A block's new bytes depend on its old ones only (rules R172, R176). -/
theorem halftoneBlock_congr (hw : 4 ≤ w) {m n : Memory} (h : ∀ a, InBlock base w a → m.read a = n.read a) (a : Nat)
    (ha : InBlock base w a) : (halftoneBlock w base m).read a = (halftoneBlock w base n).read a := by
  obtain ⟨yy, hyy, xx, hxx, rfl⟩ := ha
  rw [halftoneBlock_read base hw m hxx hyy, halftoneBlock_read base hw n hxx hyy,
    blockSum_congr fun yy hyy xx hxx => h _ ⟨yy, hyy, xx, hxx, rfl⟩]

/-- A block's bytes are left alone by every other block (rule R171). -/
theorem halftoneBlock_otherBlock {xb yb xb' yb' : Nat} (hx : xb < w / 4) (hx' : xb' < w / 4)
    (hne : ¬(xb' = xb ∧ yb' = yb)) (m : Memory) {a : Nat} (ha : InBlock (byteAddr base w (4 * xb) (4 * yb)) w a) :
    (halftoneBlock w (byteAddr base w (4 * xb') (4 * yb')) m).read a = m.read a := by
  obtain ⟨yy, hyy, xx, hxx, rfl⟩ := ha
  refine halftoneBlock_other _ _ m _ fun yy' xx' hyy' hxx' h => hne ?_
  rw [byteAddr_block, byteAddr_block] at h
  obtain ⟨hcolumn, hrow⟩ := byteAddr_inj (by omega) (by omega) h
  omega

end

theorem blockSum_le (w a : Nat) (m : Memory) : blockSum w a m ≤ 4080 := by
  refine (List.sum_le_card_nsmul _ 255 fun v hv => ?_).trans (le_of_eq (by simp [blockOffsets, Config.halftoneEdge]))
  obtain ⟨yy, -, hrow⟩ := List.mem_flatMap.1 hv
  obtain ⟨xx, -, rfl⟩ := List.mem_map.1 hrow
  exact Nat.le_of_lt_succ (m.read _).isLt

/-! ### The image -/

/-- The bytes of an image in memory, by column and row. -/
def imageNat (base w : Nat) (m : Memory) (x y : Nat) : Nat := (m.read (byteAddr base w x y)).toNat

theorem blockSum_eq_blockSumOf (base w : Nat) (m : Memory) (x y : Nat) :
    blockSum w (byteAddr base w (4 * (x / 4)) (4 * (y / 4))) m = blockSumOf (imageNat base w m) x y := by
  simp only [blockSum, blockSumOf, imageNat, byteAddr_block]
  rfl

/-- Each pixel of a complete block is drawn from the block's sum in the input (rules R170, R176). -/
theorem halftoneBlocks_read (p : Params) (m : Memory) {x y : Nat} (hx : x < 4 * (p.width.toNat / 4))
    (hy : y < 4 * (p.height.toNat / 4)) :
    (halftoneBlocks p m).read (byteAddr p.src.toNat p.width.toNat x y) =
      blackOrWhite (!levelBlack (blockSumOf (imageNat p.src.toNat p.width.toNat m) x y) (x % 4) (y % 4)) := by
  have hwidth : 4 ≤ p.width.toNat := by omega
  have hpixel : byteAddr p.src.toNat p.width.toNat x y =
      byteAddr p.src.toNat p.width.toNat (4 * (x / 4)) (4 * (y / 4)) + y % 4 * p.width.toNat + x % 4 := by
    rw [byteAddr_block, Nat.div_add_mod, Nat.div_add_mod]
  have hxx := Nat.mod_lt x four_pos
  have hyy := Nat.mod_lt y four_pos
  refine (read_foldl_rows_columns_turn (w := p.width.toNat / 4) (h := p.height.toNat / 4) (x := x / 4) (y := y / 4)
    (f := fun m xb yb => halftoneBlock p.width.toNat (byteAddr p.src.toNat p.width.toNat (4 * xb) (4 * yb)) m)
    (own := InBlock (byteAddr p.src.toNat p.width.toNat (4 * (x / 4)) (4 * (y / 4))) p.width.toNat)
    (by omega) (by omega) (fun m xb hxb yb _ hne a ha => ?_) (fun m n => halftoneBlock_congr _ hwidth) m
    ⟨_, hyy, _, hxx, hpixel⟩).trans ?_
  · exact halftoneBlock_otherBlock _ (by omega) (by omega) hne m ha
  · rw [hpixel, halftoneBlock_read _ hwidth m hxx hyy, halftoneWhite_dotRadius (blockSum_le _ _ m) hxx hyy,
      blockSum_eq_blockSumOf]

/-- The remainder whitens the pixels outside the complete blocks and leaves the others (rule R175). -/
theorem halftoneRemainder_read (p : Params) (m : Memory) {x y : Nat} (hx : x < p.width.toNat) (hy : y < p.height.toNat) :
    (halftoneRemainder p m).read (byteAddr p.src.toNat p.width.toNat x y) =
      if x < 4 * (p.width.toNat / 4) ∧ y < 4 * (p.height.toNat / 4) then m.read (byteAddr p.src.toNat p.width.toNat x y)
      else 255#8 := by
  refine (read_foldl_rows_columns_turn (own := (· = byteAddr p.src.toNat p.width.toNat x y))
    (f := fun m x y =>
      if decide (4 * (p.width.toNat / 4) ≤ x) || decide (4 * (p.height.toNat / 4) ≤ y) then
        m.write (byteAddr p.src.toNat p.width.toNat x y) (blackOrWhite true)
      else m) hx hy ?_ ?_ m rfl).trans ?_
  · rintro m x' hx' y' - hne a rfl
    split
    · refine Memory.read_write_other _ _ fun h => hne ?_
      obtain ⟨hcolumn, hrow⟩ := byteAddr_inj hx hx' h
      exact ⟨hcolumn.symm, hrow.symm⟩
    · rfl
  · rintro m n hagree a rfl
    split
    · simp
    · exact hagree _ rfl
  · simp only [Bool.or_eq_true, decide_eq_true_eq]
    split_ifs
    · omega
    · rw [Memory.read_write_same]; rfl
    · rfl
    · omega

/-- HALFTONE on memory is the level table on the image of the input (rules R170 to R177). -/
theorem halftoneMemory_read (p : Params) (m : Memory) {x y : Nat} (hx : x < p.width.toNat) (hy : y < p.height.toNat) :
    ((halftoneMemory p m).read (byteAddr p.src.toNat p.width.toNat x y)).toNat =
      halftonePixel p.width.toNat p.height.toNat (imageNat p.src.toNat p.width.toNat m) x y := by
  rw [halftoneMemory, halftoneRemainder_read p _ hx hy, halftonePixel]
  by_cases hcomplete : x < 4 * (p.width.toNat / 4) ∧ y < 4 * (p.height.toNat / 4)
  · obtain ⟨hxb, hyb⟩ := hcomplete
    rw [if_pos ⟨hxb, hyb⟩, halftoneBlocks_read p m hxb hyb]
    cases levelBlack (blockSumOf (imageNat p.src.toNat p.width.toNat m) x y) (x % 4) (y % 4) <;>
      simp [blackOrWhite, hxb, hyb]
  · rw [if_neg hcomplete, if_neg fun ⟨hxb, hyb, _⟩ => hcomplete ⟨hxb, hyb⟩]
    rfl

/-- Settles O33: the command completes with HALFTONE's memory, which is the level table's image. -/
theorem halftoneDrawsTheDots : Obligations.HalftoneDrawsTheDots := by
  intro s h
  obtain ⟨t, hexec, hcompleted, houtside, hmem⟩ := exec_of_runs (i := .halftone) rfl h
  refine ⟨t, hexec, hcompleted, houtside, fun x y hx hy => ?_⟩
  rw [hmem]
  exact halftoneMemory_read s.lat s.mem hx hy

end Sys2Proof.Machine
end

section
/-! PACK's bits (rules R190 to R194), and the unpacking that rebuilds a binary input (rule R198). -/

namespace Sys2Proof.Machine

/-! ### One byte -/

/-- The mask of turn `j` is the one bit `7-j` (rule R191). -/
theorem getLsbD_packMask (j : Nat) {d : Nat} (hd : d < 8) : (0x80#8 >>> j).getLsbD (7 - d) = decide (j = d) := by
  have hmask : 0x80#8 = BitVec.twoPow 8 7 := rfl
  rw [BitVec.getLsbD_ushiftRight, hmask, BitVec.getLsbD_twoPow, decide_eq_true (by decide : 7 < 8), Bool.true_and,
    decide_eq_decide]
  omega

/-- After `n` turns a pixel's bit is set exactly when it is one of the first `n` and black (rules R191, R194). -/
theorem getLsbD_foldl_packMask (black : Nat → Bool) (n : Nat) {d : Nat} (hd : d < 8) :
    ((List.range n).foldl (fun pre j => if black j then pre ||| (0x80#8 >>> j) else pre) 0#8).getLsbD (7 - d) =
      (decide (d < n) && black d) := by
  induction n with
  | zero => simp
  | succ n ih =>
    rw [List.range_succ, List.foldl_append, List.foldl_cons, List.foldl_nil]
    obtain rfl | hne := eq_or_ne n d
    · cases hblack : black n <;> simp [ih, hblack, getLsbD_packMask n hd]
    · have hlt : d < n + 1 ↔ d < n := by omega
      split <;> simp [ih, getLsbD_packMask n hd, hne, hlt]

/-- The complement makes the bit of an existing black pixel 0 and every other bit 1 (rules R192 to R194). -/
theorem packByte_getLsbD (src left : Nat) (m : Memory) {d : Nat} (hd : d < 8) :
    (packByte src left m).getLsbD (7 - d) = !(decide (d < left) && m.read (src + d) == 0#8) := by
  have hones : (0xFF#8).getLsbD (7 - d) = true := by
    rw [show 0xFF#8 = BitVec.allOnes 8 from rfl, BitVec.getLsbD_allOnes, decide_eq_true_eq]
    omega
  rw [packByte, BitVec.getLsbD_xor, getLsbD_foldl_packMask (fun j => decide (j < left) && (m.read (src + j) == 0#8)) 8 hd,
    hones, decide_eq_true hd, Bool.true_and, Bool.xor_true]

/-! ### The bitstream -/

/-- With the source outside the destination, each destination byte is packed from the input's pixels (rule R190). -/
theorem packMemory_read (p : Params) (m : Memory)
    (hdisjoint : (readRange .pack p).overlaps (writeRange .pack p) = false) {k : Nat} (hk : k < packedBytes p) :
    (packMemory p m).read (p.dst.toNat + k) = packByte (p.src.toNat + 8 * k) (pixels p - 8 * k) m := by
  refine read_foldl_write_of_independent (val := fun m k => packByte (p.src.toNat + 8 * k) (pixels p - 8 * k) m)
    (fun i j _ _ h => Nat.add_left_cancel h) (fun m' hm' j _ => ?_) hk
  refine packByte_congr fun d hd => hm' _ fun b hb => ?_
  have hread : (readRange .pack p).has (p.src.toNat + 8 * j + d) = true :=
    (has_iff _ _).2 (by simp only [readRange]; omega)
  have hout := not_has (has_eq_false_of_not_overlaps hdisjoint hread)
  simp only [writeRange] at hout
  omega

/-- Settles O34: the command completes with the memory of PACK's loop, and validation has kept the source and the destination
apart. -/
theorem packBits : Obligations.PackBits := by
  intro s h
  obtain ⟨t, hexec, hcompleted, houtside, hmem⟩ := exec_of_runs (i := .pack) rfl h
  obtain ⟨-, hvalid, -⟩ := h
  obtain ⟨-, -, -, -, -, -, hdisjoint⟩ := validate_accept hvalid
  refine ⟨t, hexec, hcompleted, houtside, fun k d hk hd => ?_⟩
  have hexists : d < pixels s.lat - 8 * k ↔ 8 * k + d < pixels s.lat := by omega
  have hbyte : t.mem.read (s.lat.dst.toNat + k) = packByte (s.lat.src.toNat + 8 * k) (pixels s.lat - 8 * k) s.mem := by
    rw [hmem]
    exact packMemory_read s.lat s.mem (hdisjoint rfl) hk
  rw [hbyte, packByte_getLsbD _ _ _ hd, decide_eq_decide.2 hexists, Nat.add_assoc]

/-- Settles O35: pixel `i` is bit `7 - i % 8` of byte `i / 8`, and that bit tells 0 from 255. -/
theorem unpackRebuildsTheInput : Obligations.UnpackRebuildsTheInput := by
  intro s h hbinary
  obtain ⟨t, hexec, -, -, hbits⟩ := packBits s h
  refine ⟨t, hexec, fun i hi => ?_⟩
  have hk : i / 8 < packedBytes s.lat := by
    unfold packedBytes
    omega
  have hbit := hbits (i / 8) (i % 8) hk (Nat.mod_lt i (by decide))
  rw [Nat.div_add_mod, decide_eq_true hi, Bool.true_and] at hbit
  rw [unpackPixel, hbit]
  obtain hblack | hwhite := hbinary i hi
  · simp [hblack]
  · simp [hwhite]

/-! ### A state that meets both hypotheses -/

/-- A running PACK of ten pixels in two rows, white at 0 and 9, whose second byte holds padding. -/
def packExample : State :=
  { State.reset with
    phase := .run
    lat := { cmd := 5#32, width := 5#32, height := 2#32, bright := 0#32, src := 0x1000#32, dst := 0x2000#32 }
    mem := [(0x1000, 255#8), (0x1009, 255#8)] }

theorem packExample_runs : Runs .pack packExample := by
  unfold Runs
  decide

theorem packExample_binary :
    BinaryBuffer packExample.mem packExample.lat.src.toNat (pixels packExample.lat) := by
  unfold BinaryBuffer
  decide

theorem packExample_rebuilt :
    ∃ t, exec .pack packExample = .next t ∧
      ∀ i, i < pixels packExample.lat →
        unpackPixel t.mem packExample.lat.dst.toNat i = packExample.mem.read (packExample.lat.src.toNat + i) :=
  unpackRebuildsTheInput packExample packExample_runs packExample_binary

end Sys2Proof.Machine
end

section
/-! ROTATE's index map (rules R211, R214) and its loops on memory (rules R210, R213). -/

namespace Sys2Proof.Machine

/-! ### The index map -/

/-- Output pixel `(x, y)` comes from its source (rule R211). -/
theorem rotateIndex_pixel {w h x y : Nat} (hx : x < h) : rotateIndex w h (y * h + x) = rotateSource w h x y := by
  have hrow : (y * h + x) / h = y := by
    rw [Nat.mul_comm, Nat.mul_add_div (Nat.zero_lt_of_lt hx), Nat.div_eq_of_lt hx, Nat.add_zero]
  rw [rotateIndex, Nat.mul_add_mod_of_lt hx, hrow]

theorem rotateIndex_lt {w h j : Nat} (hj : j < w * h) : rotateIndex w h j < w * h :=
  rotateSource_lt (Nat.mod_lt j (Nat.pos_of_lt_mul_left hj)) (Nat.div_lt_of_lt_mul (Nat.mul_comm w h ▸ hj))

/-- Turning both the rows and the columns round turns the pixel order round. -/
theorem rotateSource_reversed {w h x y : Nat} (hx : x < w) (hy : y < h) :
    rotateSource w h y (w - 1 - x) = w * h - 1 - (y * w + x) := by
  obtain ⟨k, rfl⟩ := Nat.exists_eq_add_of_lt hy
  have hrows : y + k + 1 - 1 - y = k := by omega
  have harea : w * (y + k + 1) = y * w + k * w + w := by ring
  rw [rotateSource, hrows, harea]
  omega

/-- A half turn reverses the pixel order: the second rotation sees a pixel in the row and the column that the first gave it. -/
theorem rotateIndex_rotateIndex {w h j : Nat} (hj : j < w * h) :
    rotateIndex w h (rotateIndex h w j) = w * h - 1 - j := by
  have hcolumn : j % w < w := Nat.mod_lt j (Nat.pos_of_lt_mul_right hj)
  have hrow : j / w < h := Nat.div_lt_of_lt_mul hj
  calc rotateIndex w h (rotateIndex h w j)
      = rotateIndex w h ((w - 1 - j % w) * h + j / w) := rfl
    _ = rotateSource w h (j / w) (w - 1 - j % w) := rotateIndex_pixel hrow
    _ = w * h - 1 - (j / w * w + j % w) := rotateSource_reversed hcolumn hrow
    _ = w * h - 1 - j := by rw [Nat.div_add_mod']

/-- Settles O37: four rotations are two half turns, and reversing the pixel order twice restores it. -/
theorem fourRotationsAreTheIdentity : Obligations.FourRotationsAreTheIdentity := by
  intro w h j hj
  refine ⟨rotateIndex_lt hj, rotateIndex_rotateIndex hj, ?_⟩
  rw [rotateIndex_rotateIndex hj, rotateIndex_rotateIndex (by omega)]
  omega

/-! ### One pixel -/

/-- One turn of ROTATE's loops: output pixel `(x, y)` is moved (rules R210, R213). -/
def rotateTurn (p : Params) (m : Memory) (x y : Nat) : Memory :=
  m.write32 (p.dst.toNat + 4 * (y * p.height.toNat + x))
    (m.read32 (p.src.toNat + 4 * rotateSource p.width.toNat p.height.toNat x y))

/-- The four bytes of output pixel `(x, y)` (rules R63, R210). -/
def InOutputPixel (p : Params) (x y a : Nat) : Prop :=
  p.dst.toNat + 4 * (y * p.height.toNat + x) ≤ a ∧ a < p.dst.toNat + 4 * (y * p.height.toNat + x) + 4

theorem rotateMemory_eq_foldl (p : Params) (m : Memory) :
    rotateMemory p m =
      (List.range p.width.toNat).foldl
        (fun m y => (List.range p.height.toNat).foldl (fun m x => rotateTurn p m x y) m) m := rfl

section
variable {p : Params} {x y : Nat}

/-- All four bytes of the pixel are copied (rule R213). -/
theorem rotateTurn_read (m : Memory) {c : Nat} (hc : c < 4) :
    (rotateTurn p m x y).read (p.dst.toNat + 4 * (y * p.height.toNat + x) + c) =
      m.read (p.src.toNat + 4 * rotateSource p.width.toNat p.height.toNat x y + c) := by
  rw [rotateTurn, Memory.read_write32, if_pos (by omega), Nat.add_sub_cancel_left, byteOfWord_read32 _ _ _ hc]

theorem rotateTurn_other (m : Memory) {a : Nat} (ha : ¬InOutputPixel p x y a) : (rotateTurn p m x y).read a = m.read a :=
  (Memory.read_write32 _ _ _ _).trans (if_neg ha)

theorem readsOnly_rotateTurn (hx : x < p.height.toNat) (hy : y < p.width.toNat) :
    ReadsOnly (readRange .rotate p) (InOutputPixel p x y) (fun m => rotateTurn p m x y) := by
  refine readsOnly_write32 (fun m n h => read32_congr fun k hk => h _ ((has_iff _ _).2 ?_)) _
  have hsource := rotateSource_lt hx hy
  simp only [readRange, pixels]
  omega

theorem InOutputPixel.has_writeRange (hx : x < p.height.toNat) (hy : y < p.width.toNat) {a : Nat}
    (ha : InOutputPixel p x y a) : (writeRange .rotate p).has a = true := by
  obtain ⟨hle, hlt⟩ := ha
  have hpixel := pixel_lt hx hy
  rw [Nat.mul_comm p.height.toNat] at hpixel
  refine (has_iff _ _).2 ?_
  simp only [writeRange, pixels]
  omega

/-- Output pixels that share a byte are the same pixel. -/
theorem InOutputPixel.unique {x' y' a : Nat} (hx : x < p.height.toNat) (hx' : x' < p.height.toNat)
    (ha : InOutputPixel p x y a) (ha' : InOutputPixel p x' y' a) : x = x' ∧ y = y' := by
  obtain ⟨hle, hlt⟩ := ha
  obtain ⟨hle', hlt'⟩ := ha'
  refine byteAddr_inj (base := 0) hx hx' ?_
  simp only [byteAddr]
  omega

end

/-! ### The image -/

/-- With the source outside the destination, each output pixel is its source pixel of the input: no other turn writes it, and
none writes the source (rules R210, R213). -/
theorem rotateMemory_read {p : Params} (m : Memory)
    (hdisjoint : (readRange .rotate p).overlaps (writeRange .rotate p) = false) {x y c : Nat}
    (hx : x < p.height.toNat) (hy : y < p.width.toNat) (hc : c < 4) :
    (rotateMemory p m).read (p.dst.toNat + 4 * (y * p.height.toNat + x) + c) =
      m.read (p.src.toNat + 4 * rotateSource p.width.toNat p.height.toNat x y + c) := by
  rw [rotateMemory_eq_foldl, ← rotateTurn_read m hc]
  refine read_foldl_rows_columns_turn (f := rotateTurn p)
    (own := fun a => InOutputPixel p x y a ∨ (readRange .rotate p).has a = true) hx hy
    (fun m x' hx' y' hy' hne a ha => rotateTurn_other m fun ha' => ?_) (fun m n hagree a ha => ?_) m
    (.inl ⟨by omega, by omega⟩)
  · obtain hpixel | hsource := ha
    · exact hne (ha'.unique hx' hx hpixel)
    · exact Bool.false_ne_true ((has_eq_false_of_not_overlaps hdisjoint hsource).symm.trans (ha'.has_writeRange hx' hy'))
  · exact readsOnly_rotateTurn hx hy m n (fun b hb => hagree b (.inr hb)) a (.inr (hagree a ha))

/-- Settles O36: the command completes with the memory of ROTATE's loops, and validation has kept the source and the
destination apart. -/
theorem rotateMovesPixelsWhole : Obligations.RotateMovesPixelsWhole := by
  intro s h
  obtain ⟨t, hexec, hcompleted, houtside, hmem⟩ := exec_of_runs (i := .rotate) rfl h
  obtain ⟨-, hvalid, -⟩ := h
  obtain ⟨-, -, -, -, -, -, hdisjoint⟩ := validate_accept hvalid
  refine ⟨t, hexec, hcompleted, houtside, fun x y c hx hy hc => ?_⟩
  rw [hmem]
  exact rotateMemory_read s.mem (hdisjoint rfl) hx hy hc

end Sys2Proof.Machine
end

section
/-! The control operations (rules R22, R231, R236 to R238, R240, R264, R291): how a written value decodes, and what START, SRST
and the STATUS clear do. -/

namespace Sys2Proof.Machine

/-! ### The opcode table's rows -/

/-- A one-bit mask tests its bit. -/
theorem and_bitAt_eq_iff {k : Nat} (hk : k < 32) (w : Word) :
    w &&& bitAt k true = bitAt k true ↔ w.getLsbD k = true := by
  rw [and_bitAt hk]
  refine ⟨fun h => ?_, fun h => by rw [h]⟩
  simpa only [getLsbD_bitAt hk, decide_true, Bool.and_true] using congrArg (·.getLsbD k) h

theorem decide_and_bitAt {k : Nat} (hk : k < 32) (w : Word) :
    decide (w &&& bitAt k true = bitAt k true) = w.getLsbD k := by
  simp only [and_bitAt_eq_iff hk, Bool.decide_eq_true]

/-- The mask of START and SRST tests these two bits (rule R22). -/
theorem and_startSrst_eq_iff (v : Word) (start srst : Bool) :
    v &&& 0x00000003#32 = bitAt 0 start ||| bitAt 1 srst ↔ v.getLsbD 0 = start ∧ v.getLsbD 1 = srst := by
  have hmask : v &&& 0x00000003#32 = bitAt 0 (v.getLsbD 0) ||| bitAt 1 (v.getLsbD 1) := by
    rw [← and_bitAt (by decide), ← and_bitAt (by decide), ← BitVec.and_or_distrib_left]
    rfl
  rw [hmask]
  generalize v.getLsbD 0 = bit0, v.getLsbD 1 = bit1
  revert start srst bit0 bit1
  decide

/-- All that a CTRL value can decode to, by its bits 0 and 1: SRST comes before START, and the phase tells the two STARTs
apart (rules R22, R231, R236, R240). -/
theorem decodeCtrl_cases (busy : Bool) (v : Word) :
    (v.getLsbD 1 = true ∧ decodeCtrl busy v = .instr .srst) ∨
    (v.getLsbD 0 = true ∧ v.getLsbD 1 = false ∧ busy = false ∧ decodeCtrl busy v = .instr (.start (v.getLsbD 2))) ∨
    (v.getLsbD 0 = true ∧ v.getLsbD 1 = false ∧ busy = true ∧ decodeCtrl busy v = .instr (.startBusy (v.getLsbD 2))) ∨
    (v.getLsbD 0 = false ∧ v.getLsbD 1 = false ∧ decodeCtrl busy v = .reject .plainCtrlWrite) := by
  unfold decodeCtrl
  generalize v.getLsbD 0 = start, v.getLsbD 1 = srst
  cases srst with
  | true => exact .inl ⟨rfl, rfl⟩
  | false =>
    cases start with
    | false => exact .inr (.inr (.inr ⟨rfl, rfl, rfl⟩))
    | true =>
      cases busy with
      | false => exact .inr (.inl ⟨rfl, rfl, rfl, rfl⟩)
      | true => exact .inr (.inr (.inl ⟨rfl, rfl, rfl, rfl⟩))

/-- Settles O2: each mask of the table tests the bits that the decoder splits on. -/
theorem controlWordsMatchTheTable : Obligations.ControlWordsMatchTheTable := by
  intro busy v
  have hsrst : v &&& 0x00000002#32 = 0x00000002#32 ↔ v.getLsbD 1 = true := and_bitAt_eq_iff (k := 1) (by decide) v
  have hstart : v &&& 0x00000003#32 = 0x00000001#32 ↔ v.getLsbD 0 = true ∧ v.getLsbD 1 = false :=
    and_startSrst_eq_iff v true false
  have hplain : v &&& 0x00000003#32 = 0x00000000#32 ↔ v.getLsbD 0 = false ∧ v.getLsbD 1 = false :=
    and_startSrst_eq_iff v false false
  have hbit1 : decide (v &&& 0x00000002#32 = 0x00000002#32) = v.getLsbD 1 := decide_and_bitAt (k := 1) (by decide) v
  have hbit2 : decide (v &&& 0x00000004#32 = 0x00000004#32) = v.getLsbD 2 := decide_and_bitAt (k := 2) (by decide) v
  have hbit3 : decide (v &&& 0x00000008#32 = 0x00000008#32) = v.getLsbD 3 := decide_and_bitAt (k := 3) (by decide) v
  rw [hbit1, hbit2, hbit3, hsrst, hstart, hplain]
  obtain ⟨h1, hd⟩ | ⟨h0, h1, rfl, hd⟩ | ⟨h0, h1, rfl, hd⟩ | ⟨h0, h1, hd⟩ := decodeCtrl_cases busy v
  · simp [-BitVec.getLsbD_eq_getElem, decodeStatus, hd, h1]
  · simp [-BitVec.getLsbD_eq_getElem, decodeStatus, hd, h1, h0, eq_comm]
  · simp [-BitVec.getLsbD_eq_getElem, decodeStatus, hd, h1, h0, eq_comm]
  · simp [-BitVec.getLsbD_eq_getElem, decodeStatus, hd, h1, h0]

/-! ### START -/

/-- A START in IDLE that validation rejects (rule R264). -/
theorem execStart_rejected (irqEn : Bool) {s : State} {code : ErrCode} {addr : Word} (hidle : s.phase = .idle)
    (hv : validate s.regs = .reject code addr) :
    exec (.start irqEn) s = .next ((((s.setIrqEn irqEn).latchOperands).clearOutcome).raiseError code addr) := by
  rw [execStart_idle irqEn hidle]
  obtain ⟨code', addr', hv', h⟩ | ⟨i, why, hv', -, -⟩ | ⟨i, hv', -, -⟩ := startAccepted_cases irqEn s
  · cases hv.symm.trans hv'
    exact h
  · cases hv.symm.trans hv'
  · cases hv.symm.trans hv'

/-- A START in IDLE of an accepted command that breaks no duty (rule R231). -/
theorem execStart_accepted (irqEn : Bool) {s : State} {i : Instr} (hidle : s.phase = .idle)
    (hv : validate s.regs = .accept i) (hduty : startHazard s (claimOf i s.regs) = none) :
    exec (.start irqEn) s =
      .next ((((s.setIrqEn irqEn).latchOperands).clearOutcome).enterRun (claimOf i s.regs)) := by
  rw [execStart_idle irqEn hidle]
  obtain ⟨code, addr, hv', -⟩ | ⟨j, why, hv', hduty', -⟩ | ⟨j, hv', -, h⟩ := startAccepted_cases irqEn s
  · cases hv.symm.trans hv'
  · cases hv.symm.trans hv'
    cases hduty.symm.trans hduty'
  · cases hv.symm.trans hv'
    exact h

/-- START in RUN is dropped, whichever of the two it is read as (rule R236). -/
theorem execStartBusy_run (irqEn : Bool) {s : State} (h : s.phase = .run) :
    exec (.startBusy irqEn) s = .next (startDropped irqEn s) :=
  (execStartBusy_eq irqEn s).trans (execStart_run irqEn h)

/-- Settles O40: the accepted START's state, field by field. -/
theorem startEntersRun : Obligations.StartEntersRun := by
  intro irqEn s i hidle hv hduty
  exact ⟨_, execStart_accepted irqEn hidle hv hduty, rfl, rfl, rfl, rfl, rfl, rfl, rfl, rfl, rfl, rfl, rfl, rfl, rfl, rfl,
    rfl, rfl, rfl, rfl⟩

/-- Settles O41: the rejected START's state, field by field. -/
theorem rejectedStartIsPrecise : Obligations.RejectedStartIsPrecise := by
  intro irqEn s code addr hidle hv
  exact ⟨_, execStart_rejected irqEn hidle hv, rfl, rfl, rfl, rfl, rfl, rfl, rfl, rfl, rfl, rfl, rfl, rfl, rfl, rfl, rfl,
    rfl⟩

/-- Settles O42: both readings of the write are the dropped START. -/
theorem startWhileBusyIsDropped : Obligations.StartWhileBusyIsDropped := fun irqEn s hrun =>
  ⟨execStartBusy_run irqEn hrun, (execStartBusy_eq irqEn s).symm⟩

/-! ### The STATUS clear and the soft reset -/

/-- A flag after its written bit: cleared by 1, kept by 0 (rule R238). -/
theorem and_not_eq_ite (flag written : Bool) : (flag && !written) = if written then false else flag := by
  cases written <;> simp

/-- Settles O44: each flag by its written bit. -/
theorem statusClearClearsWrittenBits : Obligations.StatusClearClearsWrittenBits := by
  intro done err ign s
  change Host.Outcome.next (s.clearFlags done err ign) = _
  simp only [State.clearFlags, and_not_eq_ite]

/-- Settles O43: every register is at its reset value, and memory outside the aborted range is kept. -/
theorem softResetAborts : Obligations.SoftResetAborts := by
  intro s
  have h := atReset_deviceReset s
  refine ⟨deviceReset s, rfl, h.phase, h.irqEn, h.status, h.regs, h.progress, h.errAddr, h.irq_eq, deviceReset_platform s,
    deviceReset_others s, deviceReset_pending s, deviceReset_read_idle, fun i hrun hd a ha => ?_⟩
  simp [abortedRange_run hrun hd, Memory.read_scramble, ha]

end Sys2Proof.Machine
end

section
/-! A command's end (rules R232, R234, R235, R242, R265): the engine's turn ends the latched command, whatever the
operand registers hold. -/

namespace Sys2Proof.Machine

/-! ### The engine's turn -/

/-- Settles O55: nothing pending and the event `finish` both give the engine its turn. -/
theorem stepRunsTheLatchedCommand : Obligations.StepRunsTheLatchedCommand := by
  intro s i hrun hd
  exact ⟨fun hp => (step_nil hp).trans (engineFinish_run hrun hd),
    fun rest hp => (step_cons hp).trans (engineFinish_run (s := s.setPending rest) hrun hd)⟩

/-- A running command ends, completed or with ERR_BUS (rules R235, R265). -/
theorem exec_command_ends {i : Instr} (hi : Request.isCommand i = true) {s : State} (hrun : s.phase = .run) :
    ∃ t, exec i s = .next t ∧ t.phase = .idle ∧ (t.status.done = true ∨ t.status.err = true) := by
  rw [exec_command hi]
  by_cases hbus : busFailures s.platform i s.lat = []
  · exact ⟨_, runCommand_completes i _ hrun hbus, by simp, .inl (by simp)⟩
  · exact ⟨_, runCommand_fails i _ hrun hbus, by simp, .inr (by simp)⟩

/-- Settles O58: the invariant says that the latched word is a command, and the engine's turn ends it. -/
theorem everyCommandEnds : Obligations.EveryCommandEnds := by
  intro s hinv hrun hturn
  obtain ⟨-, hdevice, -⟩ := (inv_iff s).1 hinv
  obtain ⟨i, hi⟩ := hdevice.runningCommand hrun
  obtain ⟨hd, -⟩ := validate_accept hi.accepted
  obtain ⟨hnil, hfinish⟩ := stepRunsTheLatchedCommand s i hrun hd
  obtain hp | ⟨rest, hp⟩ := hturn
  · rw [hnil hp]
    exact exec_command_ends (decodeCommand_isCommand hd) hrun
  · rw [hfinish rest hp]
    exact exec_command_ends (decodeCommand_isCommand hd) hrun

/-! ### Completion -/

/-- Settles O12: the command completes, and with DONE set the enabled line is high. -/
theorem commandCompletes : Obligations.CommandCompletes := by
  intro i s hi h
  obtain ⟨t, hexec, hcompleted, houtside, -⟩ := exec_of_runs hi h
  refine ⟨t, hexec, hcompleted, houtside, fun hen => ?_⟩
  obtain ⟨-, -, hdone, -, -, -, hirqEn, -⟩ := hcompleted
  simp [irq, hirqEn, hen, hdone]

/-! ### Zero dimensions -/

theorem pixels_eq_zero_iff (p : Params) : pixels p = 0 ↔ p.width = 0#32 ∨ p.height = 0#32 := by
  simp [pixels, BitVec.toNat_eq]

theorem elements_of_no_pixels {p : Params} (h : pixels p = 0) (i : Instr) : elements i p = 0 := by
  cases i <;> simp [elements, packedBytes, h]

/-- Loops over the rows and columns of an image without pixels have no turn. -/
theorem foldl_rows_columns_of_empty {rows columns : Nat} (h : rows = 0 ∨ columns = 0) (f : Nat → Memory → Nat → Memory)
    (m : Memory) : (List.range rows).foldl (fun m y => (List.range columns).foldl (f y) m) m = m := by
  obtain rfl | rfl := h
  · rfl
  · simp

theorem halftoneMemory_of_no_pixels {p : Params} (h : p.width.toNat = 0 ∨ p.height.toNat = 0) (m : Memory) :
    halftoneMemory p m = m := by
  have hblocks : p.height.toNat / Config.halftoneEdge = 0 ∨ p.width.toNat / Config.halftoneEdge = 0 :=
    h.symm.imp (fun hh => by rw [hh, Nat.zero_div]) (fun hw => by rw [hw, Nat.zero_div])
  calc halftoneMemory p m
      = halftoneBlocks p m := foldl_rows_columns_of_empty h.symm _ _
    _ = m := foldl_rows_columns_of_empty hblocks _ _

/-- Without pixels a command's pseudocode writes nothing (D13). -/
theorem commandMemory_of_no_pixels {p : Params} (h : pixels p = 0) (i : Instr) (m : Memory) : commandMemory i p m = m := by
  have hdims : p.width.toNat = 0 ∨ p.height.toNat = 0 := Nat.mul_eq_zero.1 h
  cases i with
  | gray aaw => simp [commandMemory, grayMemory, h]
  | thresh => simp [commandMemory, threshMemory, h]
  | diffuse => exact foldl_rows_columns_of_empty hdims.symm _ m
  | halftone => exact halftoneMemory_of_no_pixels hdims m
  | pack => simp [commandMemory, packMemory, packedBytes, h]
  | rotate => exact foldl_rows_columns_of_empty hdims _ m
  | start _ | startBusy _ | srst | clear _ _ _ => rfl

theorem halftoneReads_of_no_pixels {p : Params} (h : pixels p = 0) : halftoneReads p = [] := by
  obtain hw | hh := (pixels_eq_zero_iff p).1 h
  · simp [halftoneReads, hw]
  · simp [halftoneReads, hh]

theorem readAddrs_of_no_pixels {p : Params} (h : pixels p = 0) (i : Instr) : readAddrs i p = [] := by
  cases i with
  | halftone => exact halftoneReads_of_no_pixels h
  | gray _ | thresh | diffuse | pack | rotate => simp [readAddrs, readRange, Region.addresses, h]
  | start _ | startBusy _ | srst | clear _ _ _ => rfl

theorem writeAddrs_of_no_pixels {p : Params} (h : pixels p = 0) (i : Instr) : writeAddrs i p = [] := by
  cases i <;> simp [writeAddrs, writeRange, Region.addresses, Region.empty, packedBytes, h]

/-- Without pixels a command has no access that could fail (D13). -/
theorem busFailures_of_no_pixels {p : Params} (h : pixels p = 0) (pl : Platform) (i : Instr) : busFailures pl i p = [] := by
  simp [busFailures, readAddrs_of_no_pixels h, writeAddrs_of_no_pixels h]

/-- Settles O17: no access can fail, so that the command completes, with memory as it was. -/
theorem emptyCommandCompletes : Obligations.EmptyCommandCompletes := by
  intro i s hi hrun hdims
  have hpixels := (pixels_eq_zero_iff s.lat).2 hdims
  refine ⟨_, (exec_command hi s).trans (runCommand_completes i _ hrun (busFailures_of_no_pixels hpixels _ i)), ?_⟩
  simp [commandMemory_of_no_pixels hpixels, elements_of_no_pixels hpixels]

/-! ### Operand registers during RUN: each operation of the engine carries them along -/

section
variable (s : State) (p : Params)

@[simp] theorem setMem_setRegs (m : Memory) : (s.setRegs p).setMem m = (s.setMem m).setRegs p := rfl

@[simp] theorem setProgress_setRegs (n : Word) : (s.setRegs p).setProgress n = (s.setProgress n).setRegs p := rfl

@[simp] theorem raiseError_setRegs (code : ErrCode) (addr : Word) :
    (s.setRegs p).raiseError code addr = (s.raiseError code addr).setRegs p := rfl

@[simp] theorem complete_setRegs (i : Instr) : complete i (s.setRegs p) = (complete i s).setRegs p := rfl

@[simp] theorem draw_setRegs (n : Nat) : (s.setRegs p).draw n = (s.draw n).setRegs p := rfl

@[simp] theorem forgetLatches_setRegs : (s.setRegs p).forgetLatches = s.forgetLatches.setRegs p := rfl

@[simp] theorem markWritten_setRegs (r : Region) : (s.setRegs p).markWritten r = (s.markWritten r).setRegs p := by
  unfold State.markWritten
  rw [apply_ite (State.setRegs · p)]
  rfl

@[simp] theorem busError_setRegs (i : Instr) (failing : List Nat) :
    busError i failing (s.setRegs p) = (busError i failing s).setRegs p := by
  simp [busError]

end

/-- Settles O18: both ends of a command, completion and ERR_BUS, take their operands from the latches. -/
theorem operandWritesDoNotReachTheRunningCommand : Obligations.OperandWritesDoNotReachTheRunningCommand := by
  intro i s p hi hrun
  rw [exec_command hi, exec_command hi]
  by_cases hbus : busFailures s.platform i s.lat = []
  · exact ⟨_, runCommand_completes i _ hrun hbus,
      (runCommand_completes i _ (s := s.setRegs p) hrun hbus).trans (by simp)⟩
  · exact ⟨_, runCommand_fails i _ hrun hbus, (runCommand_fails i _ (s := s.setRegs p) hrun hbus).trans (by simp)⟩

end Sys2Proof.Machine
end

section
/-! Leaving phase RUN (rules R34, R237, R242, R290): of the events, only the engine's end of its command, a reset
and an SRST write. -/

namespace Sys2Proof.Machine

theorem ne_idle_of_same_phase {s t : State} (hrun : s.phase = .run) (h : t.phase = s.phase) : t.phase ≠ .idle := by
  rw [h, hrun]
  decide

/-- In RUN a CTRL write takes the engine out of the phase only with SRST set (rules R236, R237). -/
theorem writeCtrl_leaves_run {v : Word} {s t : State} (hrun : s.phase = .run) (h : writeCtrl v s = .next t)
    (hidle : t.phase = .idle) : v.getLsbD 1 = true := by
  obtain ⟨hsrst, -⟩ | ⟨-, -, hbusy, -⟩ | ⟨-, -, -, hd⟩ | ⟨-, -, hd⟩ := decodeCtrl_cases s.busy v
  · exact hsrst
  · cases (busy_eq_true.2 hrun).symm.trans hbusy
  · rw [writeCtrl_instr hd, execStartBusy_run _ hrun] at h
    cases h
    exact absurd hidle (ne_idle_of_same_phase hrun rfl)
  · rw [writeCtrl, hd] at h
    cases h
    exact absurd hidle (ne_idle_of_same_phase hrun rfl)

/-- In RUN a register write takes the engine out of the phase only as an SRST write to CTRL (rule R230). -/
theorem writeOffset_leaves_run {offset : Nat} {v : Word} {s t : State} (hrun : s.phase = .run)
    (h : writeOffset offset v s = .next t) (hidle : t.phase = .idle) : offset = 4 ∧ v.getLsbD 1 = true := by
  by_cases hctrl : offset = 4
  · subst hctrl
    exact ⟨rfl, writeCtrl_leaves_run hrun h hidle⟩
  · have hkeeps : t.phase = s.phase := by
      obtain ⟨rfl, -⟩ | ⟨rfl, -⟩ | ⟨-, hw⟩ | ⟨p, hw⟩ | hw := writeOffset_cases offset v s
      · exact absurd rfl hctrl
      · exact absurd rfl hctrl
      all_goals rw [hw] at h; cases h; rfl
    exact absurd hidle (ne_idle_of_same_phase hrun hkeeps)

/-- Only a 32-bit access reaches a register (rule R69). -/
theorem width_of_route_register {p : Platform} {addr : Word} {w : Width} {offset : Nat}
    (h : route p addr w = .register offset) : w = .word := by
  simp only [route] at h
  split_ifs at h with hany hword
  simp only [Bool.and_eq_true, decide_eq_true_eq] at hword
  obtain ⟨⟨-, hw⟩, -⟩ := hword
  exact hw

theorem loadRegister_phase (offset : Nat) (s : State) : (loadRegister offset s).phase = s.phase := by
  obtain hl | ⟨-, hl⟩ := loadRegister_cases offset s <;> rw [hl] <;> rfl

theorem senseIrq_phase (line : Nat) (s : State) : (senseIrq line s).phase = s.phase := by
  obtain ⟨v, hl⟩ | ⟨-, v, hl⟩ := senseIrq_cases line s <;> rw [hl] <;> rfl

theorem engineWork_phase (s : State) : (engineWork s).phase = s.phase := by
  unfold engineWork
  split
  · rfl
  · split <;> rfl

theorem otherEnds_phase (c : Claim) (s : State) : (otherEnds c s).phase = s.phase := by
  unfold otherEnds
  split <;> rfl

/-- The host's operations, by the route of a store (rules R20, R61, R69): every other one keeps the phase. -/
theorem hostOp_leaves_run {op : HostOp} {s t : State} (hrun : s.phase = .run) (h : hostOp op s = .next t)
    (hidle : t.phase = .idle) :
    ∃ addr v, op = .store addr .word v ∧ route s.platform addr .word = .register 4 ∧ v.getLsbD 1 = true := by
  cases op with
  | store addr w v =>
    simp only [hostOp] at h
    split at h
    · rename_i offset hroute
      obtain ⟨rfl, hsrst⟩ := writeOffset_leaves_run hrun h hidle
      cases width_of_route_register hroute
      exact ⟨addr, v, rfl, hroute, hsrst⟩
    · cases h
    · obtain ⟨-, rfl⟩ := storeMemory_cases h
      exact absurd hidle (ne_idle_of_same_phase hrun (State.markDirty_phase _ _))
  | load addr w =>
    simp only [hostOp] at h
    split at h
    · cases h
      exact absurd hidle (ne_idle_of_same_phase hrun (loadRegister_phase _ s))
    · cases h
    · cases loadMemory_cases h
      exact absurd hidle (ne_idle_of_same_phase hrun rfl)
  | senseIrq line =>
    cases h
    exact absurd hidle (ne_idle_of_same_phase hrun (senseIrq_phase line s))
  | clean r =>
    cases h
    exact absurd hidle (ne_idle_of_same_phase hrun rfl)
  | invalidate r =>
    cases h
    exact absurd hidle (ne_idle_of_same_phase hrun rfl)

/-- The events that take the engine out of RUN (rules R34, R242). -/
theorem deliver_leaves_run {e : Event} {s t : State} (hrun : s.phase = .run) (h : deliver e s = .next t)
    (hidle : t.phase = .idle) :
    e = .finish ∨ e = .powerReset ∨
      ∃ addr v, e = .host (.store addr .word v) ∧ route s.platform addr .word = .register 4 ∧ v.getLsbD 1 = true := by
  cases e with
  | host op =>
    obtain ⟨addr, v, rfl, hroute, hsrst⟩ := hostOp_leaves_run hrun h hidle
    exact .inr (.inr ⟨addr, v, rfl, hroute, hsrst⟩)
  | work =>
    cases h
    exact absurd hidle (ne_idle_of_same_phase hrun (engineWork_phase s))
  | finish => exact .inl rfl
  | powerReset => exact .inr (.inl rfl)
  | otherStart c =>
    obtain ⟨-, ho⟩ | ⟨-, ho⟩ := otherStarts_cases c s
    all_goals cases ho.symm.trans h
    exact absurd hidle (ne_idle_of_same_phase hrun rfl)
  | otherEnd c =>
    cases h
    exact absurd hidle (ne_idle_of_same_phase hrun (otherEnds_phase c s))

/-- Settles O10: the event of the step's turn is one of those that take the engine out of RUN. -/
theorem onlyTheseEventsLeaveRun : Obligations.OnlyTheseEventsLeaveRun := by
  intro s t hrun hstep hidle
  cases hp : s.pending with
  | nil => exact .inl rfl
  | cons e rest =>
    rw [step_cons hp] at hstep
    obtain rfl | rfl | ⟨addr, v, rfl, hroute, hsrst⟩ := deliver_leaves_run (s := s.setPending rest) hrun hstep hidle
    · exact .inr (.inl ⟨rest, rfl⟩)
    · exact .inr (.inr (.inl ⟨rest, rfl⟩))
    · have hmask := (and_bitAt_eq_iff (k := 1) (by decide) v).2 hsrst
      exact .inr (.inr (.inr ⟨addr, v, rest, rfl, hroute, hmask⟩))

end Sys2Proof.Machine
end

section
/-! START's validation by the checks of rule R262 (rules R261 to R263): the machine's ranges are the request's, and each
check of `validate` is one of the request's. -/

namespace Sys2Proof.Machine

/-! ### The ranges of a request -/

/-- The bytes at SRC that a request names (rule R67). -/
def sourceRegion (i : Instr) (p : Params) : Region := { base := p.src.toNat, size := Request.sourceBytes i p }

/-- The bytes at DST that a request names; none for a reducer (rule R67). -/
def targetRegion (i : Instr) (p : Params) : Region := { base := p.dst.toNat, size := Request.targetBytes i p }

theorem readRange_of_isCommand {i : Instr} (hi : Request.isCommand i = true) (p : Params) :
    readRange i p = sourceRegion i p := by
  cases i with
  | gray _ | thresh | diffuse | halftone | pack | rotate => rfl
  | start _ | startBusy _ | srst | clear _ _ _ => cases hi

theorem writeRange_of_not_inPlace {i : Instr} (hi : Request.isCommand i = true) (hplace : inPlace i = false) (p : Params) :
    writeRange i p = targetRegion i p := by
  cases i with
  | gray _ | pack | rotate => rfl
  | thresh | diffuse | halftone => cases hplace
  | start _ | startBusy _ | srst | clear _ _ _ => cases hi

/-- A reducer has no range at DST (rule R29). -/
theorem targetBytes_of_inPlace {i : Instr} (hplace : inPlace i = true) (p : Params) : Request.targetBytes i p = 0 := by
  cases i with
  | thresh | diffuse | halftone => rfl
  | gray _ | pack | rotate | start _ | startBusy _ | srst | clear _ _ _ => cases hplace

/-- A command that reads nothing writes nothing (D13). -/
theorem targetBytes_eq_zero_of_sourceBytes {i : Instr} {p : Params} (h : Request.sourceBytes i p = 0) :
    Request.targetBytes i p = 0 := by
  cases i with
  | gray _ | pack | rotate =>
    simp only [Request.sourceBytes] at h
    simp only [Request.targetBytes]
    omega
  | thresh | diffuse | halftone | start _ | startBusy _ | srst | clear _ _ _ => rfl

/-! ### Each check -/

theorem dimsTooBig_eq (p : Params) :
    (decide (Config.maxDim < p.width.toNat) || decide (Config.maxDim < p.height.toNat)) = !Request.dimsOk p := by
  rw [Bool.eq_iff_iff]
  simp only [Request.dimsOk, Bool.or_eq_true, Bool.not_eq_true', Bool.and_eq_false_iff, decide_eq_true_eq,
    decide_eq_false_iff_not, Nat.not_le]

theorem brightTooBig_eq (i : Instr) (p : Params) : brightTooBig i p = !Request.brightOk i p := by
  cases i with
  | gray _ =>
    rw [Bool.eq_iff_iff]
    simp only [brightTooBig, Request.brightOk, Bool.not_eq_true', decide_eq_true_eq, decide_eq_false_iff_not, Nat.not_le]
  | thresh | diffuse | halftone | pack | rotate | start _ | startBusy _ | srst | clear _ _ _ => rfl

/-- The base of the first misaligned RGBA range: the source's before the destination's (rules R68, R261). -/
theorem misaligned_base (i : Instr) (p : Params) :
    (misaligned i p).map (fun r => BitVec.ofNat 32 r.base) =
      if Request.aligned i p = true then none else some (if p.src.toNat % 4 ≠ 0 then p.src else p.dst) := by
  cases i with
  | gray _ =>
    by_cases hsrc : p.src.toNat % 4 = 0
    all_goals simp [misaligned, rgbaRanges, readRange, Request.aligned, hsrc]
  | rotate =>
    by_cases hsrc : p.src.toNat % 4 = 0
    all_goals by_cases hdst : p.dst.toNat % 4 = 0
    all_goals simp [misaligned, rgbaRanges, readRange, writeRange, Request.aligned, hsrc, hdst]
  | thresh | diffuse | halftone | pack | start _ | startBusy _ | srst | clear _ _ _ => rfl

/-- Only a range with a byte past the top of the address space fails (rule R73). -/
def passesTop (r : Region) : Bool := decide (0 < r.size) && decide (Config.addressSpace < r.base + r.size)

/-- The checked ranges are the two of the request: a reducer's second one is empty, and an empty range passes. -/
theorem outOfRange_of_isCommand {i : Instr} (hi : Request.isCommand i = true) (p : Params) :
    outOfRange i p = [sourceRegion i p, targetRegion i p].find? passesTop := by
  change (checkedRanges i p).find? passesTop = _
  unfold checkedRanges
  rw [readRange_of_isCommand hi]
  cases hplace : inPlace i with
  | true => simp [List.find?_cons, targetRegion, targetBytes_of_inPlace hplace, passesTop]
  | false => rw [writeRange_of_not_inPlace hi hplace]; rfl

theorem passesTop_eq_false_iff (r : Region) :
    passesTop r = false ↔ r.size = 0 ∨ r.base + r.size ≤ Config.addressSpace := by
  simp only [passesTop, Bool.and_eq_false_iff, decide_eq_false_iff_not]
  omega

theorem passesTop_iff (r : Region) : passesTop r = true ↔ 0 < r.size ∧ 2 ^ 32 < r.base + r.size := by
  simp only [passesTop, Bool.and_eq_true, decide_eq_true_eq]
  rfl

theorem inRange_iff (i : Instr) (p : Params) :
    Request.inRange i p = true ↔
      passesTop (sourceRegion i p) = false ∧ passesTop (targetRegion i p) = false := by
  simp only [passesTop_eq_false_iff, Request.inRange, Bool.and_eq_true, Bool.or_eq_true, decide_eq_true_eq]
  rfl

/-- The base of the first range past the top: the source's before the destination's (rules R73, R261). -/
theorem outOfRange_base {i : Instr} (hi : Request.isCommand i = true) (p : Params) :
    (outOfRange i p).map (fun r => BitVec.ofNat 32 r.base) =
      if Request.inRange i p = true then none
      else some (if 0 < Request.sourceBytes i p ∧ 2 ^ 32 < p.src.toNat + Request.sourceBytes i p then p.src else p.dst) := by
  have hsource : (0 < Request.sourceBytes i p ∧ 2 ^ 32 < p.src.toNat + Request.sourceBytes i p) ↔
      passesTop (sourceRegion i p) = true := (passesTop_iff (sourceRegion i p)).symm
  rw [outOfRange_of_isCommand hi]
  simp only [hsource, inRange_iff, List.find?_cons, List.find?_nil]
  cases passesTop (sourceRegion i p) with
  | true => simp [sourceRegion]
  | false =>
    cases passesTop (targetRegion i p) with
    | true => simp [targetRegion]
    | false => simp

theorem overlaps_iff_bounds (r q : Region) :
    r.overlaps q = true ↔ 0 < r.size ∧ 0 < q.size ∧ r.base < q.base + q.size ∧ q.base < r.base + r.size := by
  simp only [Region.overlaps, Bool.and_eq_true, decide_eq_true_eq, and_assoc]

theorem disjoint_eq_false_iff (i : Instr) (p : Params) :
    Request.disjoint i p = false ↔
      Request.targetBytes i p ≠ 0 ∧ p.dst.toNat < p.src.toNat + Request.sourceBytes i p ∧
        p.src.toNat < p.dst.toNat + Request.targetBytes i p := by
  simp only [Request.disjoint, Bool.or_eq_false_iff, decide_eq_false_iff_not, Nat.not_le, and_assoc, ne_eq]

/-- The overlap check: a reducer has no destination, and a command without a source has none either (rule R74). -/
theorem overlapCheck_eq {i : Instr} (hi : Request.isCommand i = true) (p : Params) :
    (!inPlace i && (readRange i p).overlaps (writeRange i p)) = !Request.disjoint i p := by
  cases hplace : inPlace i with
  | true => simp [Request.disjoint, targetBytes_of_inPlace hplace]
  | false =>
    have hempty := targetBytes_eq_zero_of_sourceBytes (i := i) (p := p)
    rw [readRange_of_isCommand hi, writeRange_of_not_inPlace hi hplace, Bool.not_false, Bool.true_and, Bool.eq_iff_iff,
      overlaps_iff_bounds, Bool.not_eq_true', disjoint_eq_false_iff]
    simp only [sourceRegion, targetRegion]
    omega

/-! ### The verdict -/

/-- The verdict on a command, by the request's checks in rule R261's order. -/
theorem validate_instr {p : Params} {i : Instr} (h : decodeCommand p.cmd = .instr i) :
    validate p =
      if (Request.dimsOk p && Request.brightOk i p) = false then .reject .param 0#32
      else if Request.aligned i p = false then .reject .align (if p.src.toNat % 4 ≠ 0 then p.src else p.dst)
      else if Request.inRange i p = false then
        .reject .range
          (if 0 < Request.sourceBytes i p ∧ 2 ^ 32 < p.src.toNat + Request.sourceBytes i p then p.src else p.dst)
      else if Request.disjoint i p = false then .reject .overlap p.dst
      else .accept i := by
  have hi := decodeCommand_isCommand h
  have halign := misaligned_base i p
  have hrange := outOfRange_base hi p
  unfold validate
  simp only [h, dimsTooBig_eq, brightTooBig_eq, overlapCheck_eq hi]
  cases Request.dimsOk p with
  | false => rfl
  | true =>
  cases Request.brightOk i p with
  | false => rfl
  | true =>
  cases hm : misaligned i p with
  | some r =>
    cases ha : Request.aligned i p with
    | true => simp [hm, ha] at halign
    | false => simpa [hm, ha] using halign
  | none =>
  cases ha : Request.aligned i p with
  | false => simp [hm, ha] at halign
  | true =>
  cases ho : outOfRange i p with
  | some r =>
    cases hr : Request.inRange i p with
    | true => simp [ho, hr] at hrange
    | false => simpa [ho, hr] using hrange
  | none =>
  cases hr : Request.inRange i p with
  | false => simp [ho, hr] at hrange
  | true => cases Request.disjoint i p <;> rfl

/-- Settles O39: each clause is one branch of the verdict. -/
theorem validateReportsTheFirstFailure : Obligations.ValidateReportsTheFirstFailure := by
  intro i p
  refine ⟨fun ⟨_, hwhy⟩ => validate_illegal (by simp [hwhy]), fun hi => ?_⟩
  rw [validate_instr hi]
  simp +contextual

/-- Settles O38: the verdict accepts where no branch before the last is taken, and accepts the decoded command only. -/
theorem validateAcceptsExactlyWellFormed : Obligations.ValidateAcceptsExactlyWellFormed := by
  intro i p
  constructor
  · intro hv
    obtain ⟨hi, -⟩ := validate_accept hv
    refine ⟨hi, ?_⟩
    rw [validate_instr hi] at hv
    split_ifs at hv with hparam halign hrange hdisjoint
    simp_all [Request.wf, decodeCommand_isCommand hi]
  · rintro ⟨hi, hwf⟩
    simp only [Request.wf, Bool.and_eq_true] at hwf
    obtain ⟨⟨⟨⟨⟨-, hdims⟩, hbright⟩, halign⟩, hrange⟩, hdisjoint⟩ := hwf
    simp [validate_instr hi, hdims, hbright, halign, hrange, hdisjoint]

end Sys2Proof.Machine
end

section
/-! A failing bus access, and the device in phase IDLE (rules R263, R264, R265, R278, R290). -/

namespace Sys2Proof.Machine

/-! ### The accesses of an accepted command -/

/-- HALFTONE reads the complete blocks, which lie in the image (rule R171, assumption 14). -/
theorem has_readRange_of_mem_halftoneReads {p : Params} {a : Nat} (h : a ∈ halftoneReads p) :
    (readRange .halftone p).has a = true := by
  simp only [halftoneReads, List.mem_flatMap, List.mem_map, List.mem_range] at h
  obtain ⟨y, hy, x, hx, rfl⟩ := h
  have hy' : y < p.height.toNat := Nat.lt_of_lt_of_le hy (Nat.mul_div_le _ _)
  have hx' : x < p.width.toNat := Nat.lt_of_lt_of_le hx (Nat.mul_div_le _ _)
  have hpixel := pixel_lt hx' hy'
  rw [has_iff]
  simp only [readRange, byteAddr, pixels]
  omega

/-- A command reads within its read range (rule R67). -/
theorem has_readRange_of_mem_readAddrs {i : Instr} {p : Params} {a : Nat} (h : a ∈ readAddrs i p) :
    (readRange i p).has a = true := by
  cases i with
  | halftone => exact has_readRange_of_mem_halftoneReads h
  | gray _ | thresh | diffuse | pack | rotate => exact (mem_addresses _ a).1 h
  | start _ | startBusy _ | srst | clear _ _ _ => cases h

/-- An access that the platform does not complete is to a byte of the command's ranges (rules R67, R265). -/
theorem has_of_mem_busFailures {pl : Platform} {i : Instr} {p : Params} {a : Nat} (h : a ∈ busFailures pl i p) :
    (readRange i p).has a = true ∨ (writeRange i p).has a = true := by
  obtain hread | hwrite := List.mem_append.1 h
  · exact .inl (has_readRange_of_mem_readAddrs (List.mem_of_mem_filter hread))
  · exact .inr ((mem_addresses _ a).1 (List.mem_of_mem_filter hwrite))

theorem lt_of_has_of_not_passesTop {r : Region} {a : Nat} (hr : passesTop r = false) (ha : r.has a = true) : a < 2 ^ 32 := by
  obtain ⟨hlow, hhigh⟩ := (has_iff r a).1 ha
  have hend := (passesTop_eq_false_iff r).1 hr
  simp only [Config.addressSpace] at hend
  omega

theorem readRange_mem_checkedRanges (i : Instr) (p : Params) : readRange i p ∈ checkedRanges i p := by
  unfold checkedRanges
  split <;> exact List.mem_cons_self

/-- A reducer writes the range it reads (rule R67). -/
theorem writeRange_of_inPlace {i : Instr} (hplace : inPlace i = true) (p : Params) : writeRange i p = readRange i p := by
  cases i with
  | thresh | diffuse | halftone => rfl
  | gray _ | pack | rotate | start _ | startBusy _ | srst | clear _ _ _ => cases hplace

theorem writeRange_mem_checkedRanges (i : Instr) (p : Params) : writeRange i p ∈ checkedRanges i p := by
  unfold checkedRanges
  split
  · rename_i hplace
    rw [writeRange_of_inPlace hplace]
    exact List.mem_cons_self
  · exact List.mem_cons_of_mem _ List.mem_cons_self

/-- The ranges of an accepted command end within the address space: an in-place command's one range is checked as the one it
reads (rule R261). -/
theorem lt_of_mem_busFailures {pl : Platform} {i : Instr} {p : Params} {a : Nat} (hv : validate p = .accept i)
    (h : a ∈ busFailures pl i p) : a < 2 ^ 32 := by
  obtain ⟨hd, -, -, -, -, hrange, -⟩ := validate_accept hv
  have hchecked : ∀ r ∈ checkedRanges i p, passesTop r = false := by
    intro r hr
    exact Bool.eq_false_iff.2 (List.find?_eq_none.1 hrange r hr)
  obtain ha | ha := has_of_mem_busFailures h
  · exact lt_of_has_of_not_passesTop (hchecked _ (readRange_mem_checkedRanges i p)) ha
  · exact lt_of_has_of_not_passesTop (hchecked _ (writeRange_mem_checkedRanges i p)) ha

/-! ### ERR_BUS -/

/-- ERR_ADDR holds a failing address whole: every one of them fits a register (rule R263). -/
theorem busError_errAddr_mem {i : Instr} {s : State} (hv : validate s.lat = .accept i)
    (hbus : busFailures s.platform i s.lat ≠ []) :
    (busError i (busFailures s.platform i s.lat) s).errAddr.toNat ∈ busFailures s.platform i s.lat := by
  have hmem := getD_freeBelow_mem s.freeCount _ hbus
  rw [busError_errAddr, BitVec.toNat_ofNat, Nat.mod_eq_of_lt (lt_of_mem_busFailures hv hmem)]
  exact hmem

/-- ERR_BUS keeps what completion keeps, and adds at most its write range to the bytes to be invalidated (rule R302). -/
theorem busError_host (i : Instr) (failing : List Nat) (s : State) :
    (busError i failing s).host =
      { s.host with
        stale :=
          if s.platform.coherent || decide ((writeRange i s.lat).size = 0) then s.host.stale
          else writeRange i s.lat :: s.host.stale } := by
  simp [busError, State.markWritten_host]

theorem keepsAllButOutcome_busError (i : Instr) (failing : List Nat) (s : State) :
    KeepsAllButOutcome s (busError i failing s) := by
  unfold KeepsAllButOutcome
  simp +contextual [busError_host]

/-- Settles O13: the command ends with ERR_BUS, which scrambles the write range only. -/
theorem busErrorEndsTheCommand : Obligations.BusErrorEndsTheCommand := by
  rintro i s hi ⟨hrun, hv, hbus⟩ hprogress
  obtain ⟨hlow, hhigh⟩ := freeProgress_bounds_of_accept hv (s.freeCount + 1) hprogress
  refine ⟨_, (exec_command hi s).trans (runCommand_fails i _ hrun hbus), ?_, ?_, ?_, busError_phase _ _ _,
    busError_errAddr_mem hv hbus, ?_, ?_, keepsAllButOutcome_busError _ _ _, fun a ha => ?_⟩
  · rw [busError_status]
  · rw [busError_status]
  · rw [busError_status]
  · rwa [busError_progress]
  · rwa [busError_progress]
  · simp [Memory.read_scramble, ha]

/-! ### Phase IDLE -/

theorem exec_command_idle {i : Instr} (hi : Request.isCommand i = true) {s : State} (hidle : s.phase = .idle) :
    exec i s = .next s := by
  rw [exec_command hi, runCommand_idle i _ hidle]

theorem engineFinish_idle {s : State} (hidle : s.phase = .idle) : engineFinish s = .next s := by
  simp [engineFinish, hidle]

/-- Settles O14: a command in IDLE and the engine's turn in IDLE both leave the state. -/
theorem idleEngineDoesNothing : Obligations.IdleEngineDoesNothing := by
  intro i s hidle
  exact ⟨fun hi => exec_command_idle hi hidle, fun hp => (step_nil hp).trans (engineFinish_idle hidle)⟩

/-- A taken START, accepted or rejected, touches no memory (rules R231, R264). -/
theorem startAccepted_mem {irqEn : Bool} {s t : State} (h : startAccepted irqEn s = .next t) : t.mem = s.mem := by
  obtain ⟨code, addr, -, hs⟩ | ⟨i, why, -, -, hs⟩ | ⟨i, -, -, hs⟩ := startAccepted_cases irqEn s
  all_goals cases hs.symm.trans h
  all_goals rfl

/-- In IDLE no instruction changes a byte: a command does nothing, START and the STATUS clear touch no memory, and a reset has
nothing to abort. -/
theorem exec_read_idle {i : Instr} {s t : State} (hidle : s.phase = .idle) (h : exec i s = .next t) (a : Nat) :
    t.mem.read a = s.mem.read a := by
  cases i with
  | gray _ | thresh | diffuse | halftone | pack | rotate =>
    rw [exec_command_idle rfl hidle] at h
    cases h
    rfl
  | start irqEn =>
    rw [execStart_idle irqEn hidle] at h
    rw [startAccepted_mem h]
  | startBusy irqEn =>
    rw [execStartBusy_eq, execStart_idle irqEn hidle] at h
    rw [startAccepted_mem h]
  | srst =>
    cases h
    exact deviceReset_read_idle hidle a
  | clear done err ign =>
    cases h
    rfl

theorem writeOffset_read_idle {offset : Nat} {v : Word} {s t : State} (hidle : s.phase = .idle)
    (h : writeOffset offset v s = .next t) (a : Nat) : t.mem.read a = s.mem.read a := by
  obtain ⟨-, i, -, hw⟩ | ⟨-, hw⟩ | ⟨-, hw⟩ | ⟨p, hw⟩ | hw := writeOffset_cases offset v s
  all_goals rw [hw] at h
  · exact exec_read_idle hidle h a
  · cases h; rfl
  · exact exec_read_idle hidle h a
  · cases h; rfl
  · cases h; rfl

theorem loadRegister_mem (offset : Nat) (s : State) : (loadRegister offset s).mem = s.mem := by
  obtain hl | ⟨-, hl⟩ := loadRegister_cases offset s <;> rw [hl] <;> rfl

theorem senseIrq_mem (line : Nat) (s : State) : (senseIrq line s).mem = s.mem := by
  obtain ⟨v, hl⟩ | ⟨-, v, hl⟩ := senseIrq_cases line s <;> rw [hl] <;> rfl

/-- An access that touches the register window does not reach memory (rules R61, R69). -/
theorem route_ne_memory {p : Platform} {addr : Word} {w : Width} (h : reachesWindow p addr w = true) (bytes : List Nat) :
    route p addr w ≠ .memory bytes := by
  intro hroute
  have hwindow : route p addr w = _ := if_pos h
  rw [hwindow] at hroute
  split at hroute <;> cases hroute

/-- The events by which the device does not act: the host's stores to memory, its cache invalidations, and the ends of other
devices' commands. -/
def Event.isOutside (p : Platform) : Event → Bool
  | .host (.store addr w _) => !reachesWindow p addr w
  | .host (.invalidate _) => true
  | .otherEnd _ => true
  | _ => false

/-- In IDLE the host's other operations change no byte of memory. -/
theorem hostOp_read_idle {op : HostOp} {s t : State} (hidle : s.phase = .idle)
    (hop : Event.isOutside s.platform (.host op) = false) (h : hostOp op s = .next t) (a : Nat) :
    t.mem.read a = s.mem.read a := by
  cases op with
  | store addr w v =>
    simp only [hostOp] at h
    split at h
    · exact writeOffset_read_idle hidle h a
    · cases h
    · rename_i hroute
      exact absurd hroute (route_ne_memory (by simpa [Event.isOutside] using hop) _)
  | load addr w =>
    simp only [hostOp] at h
    split at h
    · cases h
      rw [loadRegister_mem]
    · cases h
    · cases loadMemory_cases h
      rfl
  | senseIrq line =>
    cases h
    rw [senseIrq_mem]
  | clean r =>
    cases h
    rfl
  | invalidate r => cases hop

/-- In IDLE no event by which the device acts changes a byte of memory. -/
theorem deliver_read_idle {e : Event} {s t : State} (hidle : s.phase = .idle) (he : e.isOutside s.platform = false)
    (h : deliver e s = .next t) (a : Nat) : t.mem.read a = s.mem.read a := by
  cases e with
  | host op => exact hostOp_read_idle hidle he h a
  | work =>
    cases h
    rw [engineWork_mem]
  | finish =>
    cases (engineFinish_idle hidle).symm.trans h
    rfl
  | powerReset =>
    cases h
    exact deviceReset_read_idle hidle a
  | otherStart c =>
    obtain ⟨-, ho⟩ | ⟨-, ho⟩ := otherStarts_cases c s
    all_goals cases ho.symm.trans h
    rfl
  | otherEnd c => cases he

/-- Settles O11: the three hypotheses say that the next event is one by which the device acts. -/
theorem idleDeviceChangesNoMemory : Obligations.IdleDeviceChangesNoMemory := by
  intro s t hidle hstep hstore hinvalidate hend a
  cases hp : s.pending with
  | nil =>
    cases ((step_nil hp).trans (engineFinish_idle hidle)).symm.trans hstep
    rfl
  | cons e rest =>
    rw [step_cons hp] at hstep
    refine deliver_read_idle (s := s.setPending rest) hidle ?_ hstep a
    unfold Event.isOutside
    split
    · rw [State.setPending_platform, hstore _ _ _ rest hp, Bool.not_true]
    · exact absurd hp (hinvalidate _ rest)
    · exact absurd hp (hend _ rest)
    · rfl

end Sys2Proof.Machine
end

section
/-! The host's duties and HostHazard (rules R276, R300 to R303, R305): when ranges share a byte, and what START, the
start of another device's command and an early read answer. -/

namespace Sys2Proof.Machine

/-! ### Shared bytes -/

/-- Two ranges overlap exactly when they share a byte (rule R74): the greater of the two bases, if any. -/
theorem overlaps_iff (r q : Region) : r.overlaps q = true ↔ ∃ a, r.has a = true ∧ q.has a = true := by
  simp only [overlaps_iff_bounds, has_iff]
  constructor
  · intro h
    exact ⟨max r.base q.base, by omega, by omega⟩
  · rintro ⟨a, hr, hq⟩
    omega

theorem covered_iff (rs : List Region) (a : Nat) : covered rs a = true ↔ ∃ r ∈ rs, r.has a = true := List.any_eq_true

/-- Some range of a list overlaps a range exactly when a byte of it is covered. -/
theorem any_overlaps_iff (rs : List Region) (q : Region) :
    rs.any (fun r => r.overlaps q) = true ↔ ∃ a, q.has a = true ∧ covered rs a = true := by
  simp only [List.any_eq_true, overlaps_iff, covered_iff]
  constructor
  · rintro ⟨r, hr, a, hra, hqa⟩
    exact ⟨a, hqa, r, hr, hra⟩
  · rintro ⟨a, hqa, r, hr, hra⟩
    exact ⟨r, hr, a, hra, hqa⟩

theorem touches_iff (c : Claim) (rs : List Region) :
    c.touches rs = true ↔ ∃ a, (c.reads.has a = true ∨ c.writes.has a = true) ∧ covered rs a = true := by
  simp only [Claim.touches, List.any_eq_true, Bool.or_eq_true, overlaps_iff, covered_iff, ← exists_or, ← and_or_left]
  constructor
  · rintro ⟨r, hr, a, hra, hca⟩
    exact ⟨a, hca, r, hr, hra⟩
  · rintro ⟨a, hca, r, hr, hra⟩
    exact ⟨r, hr, a, hra, hca⟩

/-- Two commands conflict exactly when they share a byte that either writes (rule R303). -/
theorem conflicts_iff (c d : Claim) :
    c.conflicts d = true ↔
      ∃ a, (c.writes.has a = true ∧ (d.reads.has a = true ∨ d.writes.has a = true)) ∨
        (d.writes.has a = true ∧ c.reads.has a = true) := by
  simp only [Claim.conflicts, Bool.or_eq_true, overlaps_iff, ← exists_or, and_or_left]

/-! ### Starting a command -/

/-- A START breaks no duty when it passes each of the four checks (rules R300 to R303). -/
theorem startHazard_eq_none_iff (s : State) (c : Claim) :
    startHazard s c = none ↔
      c.touches s.platform.unowned = false ∧ c.touches s.platform.special = false ∧
        s.host.dirty.any (fun r => r.overlaps c.reads) = false ∧ ∀ d ∈ s.others, c.conflicts d = false := by
  have hothers : (∀ d ∈ s.others, c.conflicts d = false) ↔ s.others.any (fun d => c.conflicts d) = false := by
    simp only [List.any_eq_false, Bool.not_eq_true]
  simp only [startHazard, hothers, ite_eq_iff, reduceCtorEq, and_false, false_or, and_true, Bool.not_eq_true]

/-- Settles O47: each of the four checks, byte by byte. -/
theorem startHazardIsABrokenDuty : Obligations.StartHazardIsABrokenDuty := by
  intro s c
  rw [startHazard_eq_none_iff]
  simp only [← Bool.not_eq_true, touches_iff, any_overlaps_iff, conflicts_iff, not_exists, not_and, not_or]
  constructor
  · rintro ⟨hextent, htype, hclean, hsharing⟩ a
    exact ⟨fun ha => ⟨hextent a ha, htype a ha⟩, hclean a, fun d hd => hsharing d hd a⟩
  · intro h
    exact ⟨fun a ha => ((h a).1 ha).1, fun a ha => ((h a).1 ha).2, fun a => (h a).2.1, fun d hd a => (h a).2.2 d hd⟩

/-- Settles O46: of what a START in IDLE can do, only the broken duty is a fault. -/
theorem startFaultsExactlyOnAHazard : Obligations.StartFaultsExactlyOnAHazard := by
  intro irqEn s why hidle
  rw [execStart_idle irqEn hidle]
  constructor
  · intro h
    obtain ⟨code, addr, -, hs⟩ | ⟨i, why', hv, hduty, hs⟩ | ⟨i, -, -, hs⟩ := startAccepted_cases irqEn s
    all_goals cases hs.symm.trans h
    exact ⟨i, hv, hduty⟩
  · rintro ⟨i, hv, hduty⟩
    obtain ⟨code, addr, hv', -⟩ | ⟨j, why', hv', hduty', hs⟩ | ⟨j, hv', hduty', -⟩ := startAccepted_cases irqEn s
    all_goals cases hv.symm.trans hv'
    all_goals cases hduty.symm.trans hduty'
    exact hs

/-! ### The start of another device's command -/

theorem runningClaim_eq_some_iff (s : State) (d : Claim) :
    runningClaim s = some d ↔ ∃ i, s.phase = .run ∧ decodeCommand s.lat.cmd = .instr i ∧ d = claimOf i s.lat := by
  unfold runningClaim
  cases s.phase with
  | idle => simp
  | run =>
    cases decodeCommand s.lat.cmd with
    | instr i => simp [eq_comm]
    | reject why => simp

/-- Settles O48: the start conflicts with a running claim exactly when the two commands share a byte that either writes. -/
theorem otherInstancesMayNotShareWrittenBytes : Obligations.OtherInstancesMayNotShareWrittenBytes := by
  intro s c rest hp
  simp only [← conflicts_iff, ← runningClaim_eq_some_iff, ← mem_runningClaims]
  rw [step_cons hp]
  change (_ → otherStarts c (s.setPending rest) = _) ∧ (_ → otherStarts c (s.setPending rest) = _)
  obtain ⟨hconflict, ho⟩ | ⟨hfree, ho⟩ := otherStarts_cases c (s.setPending rest)
  · exact ⟨fun _ => ho, fun hnone => absurd hconflict hnone⟩
  · refine ⟨fun ⟨d, hd, hconflict⟩ => ?_, fun _ => ho⟩
    exact absurd hconflict (Bool.eq_false_iff.1 (hfree d hd))

/-! ### Reading an output too early -/

/-- A host read that touches an output not yet invalidated, outside the lent write ranges, is HostHazard (rule R302). -/
theorem loadMemory_stale {bytes : List Nat} {s : State} {a : Nat} (ha : a ∈ bytes) (hstale : covered s.host.stale a = true)
    (hlent : s.lentForWriting a = false) : loadMemory bytes s = .fault (.hostHazard .coherence) :=
  if_pos (List.any_eq_true.2 ⟨a, ha, by simp [hstale, hlent]⟩)

/-- Without coherence the written bytes are to be invalidated (rule R302). -/
theorem covered_markWritten {s : State} (hcoherent : s.platform.coherent = false) {r : Region} {a : Nat}
    (ha : r.has a = true) : covered (s.markWritten r).host.stale a = true := by
  have hsize : r.size ≠ 0 := by
    have := (has_iff r a).1 ha
    omega
  simp [State.markWritten_host, hcoherent, hsize, covered, ha]

/-- Settles O49: completion adds the write range to the bytes to be invalidated, and the read finds one of them there. -/
theorem readWithoutInvalidateIsAHazard : Obligations.ReadWithoutInvalidateIsAHazard := by
  rintro i s hi ⟨hrun, -, hbus⟩ hcoherent
  refine ⟨_, (exec_command hi s).trans (runCommand_completes i _ hrun hbus), ?_⟩
  rintro addr w u rest hstale - hout ⟨a, ha, hwritten, hlent⟩ hp
  rw [step_load hout hp]
  refine loadMemory_stale (s := u.setPending rest) ha ?_ hlent
  rw [State.setPending_host, hstale]
  exact covered_markWritten (s := complete i (s.setMem (commandMemory i s.lat s.mem))) hcoherent hwritten

end Sys2Proof.Machine
end
